-- ==== Sys2Proof/Word.lean ====
section
/-! DEFINITION. The word types of the software_uart TX engine: the byte, the command word, the shift register and the
two-bit selector of a TICK. -/

namespace Sys2Proof

/-- A byte: 8 bits, a value in 0..255 (R10). -/
abbrev Byte := BitVec 8

/-- One word of the command port (R86). -/
abbrev CmdWord := BitVec 16

/-- The frame shift register. R27 sizes it `W_F` (11 bits without parity, 12 with) and says that any wider register
holds the same numeric value at every step; the model keeps 12 bits for every parity mode (log entry 5). -/
abbrev ShiftReg := BitVec 12

/-- The pair of predicates {s, q} that selects the arm of a TICK (R91): bit 1 is s, bit 0 is q. -/
abbrev Selector := BitVec 2

end Sys2Proof
end

