-- ==== Sys2Proof/Config.lean ====
section
/-! DEFINITION. What is fixed when the engine is built (R7), what the environment may do between two steps (R39), and
the free values: what the spec leaves open and no proof may know. -/

namespace Sys2Proof

/-- The parity mode `PARITY` (R7). -/
inductive Parity where
  | none
  | even
  | odd
  deriving DecidableEq, Repr

/-- The three build-time parameters (R7). They do not change at run time: no step of the machine writes them. -/
structure Config where
  /-- `N`, the queue capacity in byte slots; legal when at least 1 (`Config.wf`). -/
  capacity : Nat
  /-- `PARITY`. -/
  parity : Parity
  /-- `BAUD`, the bit rate of the line: timing only, no rule of the state machine reads it. DESIGN CHOICE: a natural
  number, so a whole rate; the spec says any positive rate and gives it no type (R7, N4; log entry 1). -/
  baud : Nat
  deriving DecidableEq, Repr

/-- What may happen next. The engine's two agents and its environment are interleaved in any order (R60, R197), so the
agent that moves next is an input of the step. -/
inductive Event where
  /-- the producer takes its next micro-operation, or issues the next command of the port when it is idle (R36) -/
  | producer
  /-- the handler may run: a TICK is taken if one is deliverable (R196), otherwise nothing happens -/
  | handler
  /-- a period boundary of the tick source (R195) -/
  | period
  /-- the environment drives the interrupt-enable state (R33, R39) -/
  | setIe (value : Bool)
  /-- words arrive on the command port (R56): the producer's program, an environment input (R39) -/
  | deliver (words : List CmdWord)
  deriving DecidableEq, Repr, Inhabited

/-- Free value: what happens at the n-th step for which no event is laid down in the state. The spec fixes no order of
ticks, producer steps and environment inputs (R197, U16), so nothing is known of it (log entry 2). -/
opaque Config.freeEvent : Nat → Event

/-- Free value: what a ring slot that was never stored to holds (R21: unspecified; U6: any value; log entry 4). -/
opaque Config.powerUpByte : Nat → Byte

end Sys2Proof
end

