-- ==== Sys2Proof/Syntax.lean ====
section
/-! DEFINITION. The operations of the engine: one constructor for each row of spec/opcode_table.json (R5 lists the same
fifteen). -/

namespace Sys2Proof

/-- The complete list of operations (R5). A string operand is the pair (bs, len) of the call syntax (R94): only
`bs[0] .. bs[len-1]` are used. -/
inductive Instr where
  /-- `INIT` (R160) -/
  | init
  /-- `TRY_PUT(b)` (R163) -/
  | tryPut (b : Byte)
  /-- `PUT(b)` (R164) -/
  | put (b : Byte)
  /-- `TRY_PUT_STRING(bs, len)` (R165) -/
  | tryPutString (bs : List Byte) (len : Nat)
  /-- `PUT_STRING(bs, len)` (R166) -/
  | putString (bs : List Byte) (len : Nat)
  /-- `TICK`, one handler invocation (R130) -/
  | tick
  /-- `TICK_EMIT`, a handler invocation that takes arm 1 (R131) -/
  | tickEmit
  /-- `TICK_LOAD`, a handler invocation that takes arm 2 (R132) -/
  | tickLoad
  /-- `TICK_NOP`, a handler invocation that takes arm 3 (R133) -/
  | tickNop
  /-- `STORE(b)` (R113) -/
  | store (b : Byte)
  /-- `TRY_ENQUEUE(b)` (R110) -/
  | tryEnqueue (b : Byte)
  /-- `ENQUEUE(b)` (R111) -/
  | enqueue (b : Byte)
  /-- `DEQUEUE()` (R112) -/
  | dequeue
  /-- `ARM` (R161) -/
  | arm
  /-- `ARM_CLR` (R162) -/
  | armClr
  deriving DecidableEq, Repr

end Sys2Proof
end

