-- ==== Sys2Proof/WellFormed.lean ====
section
/-! DEFINITION. Which configurations and which instructions are well formed. -/

namespace Sys2Proof

/-- The legal parameters (R7): `N >= 1` and a positive bit rate. -/
abbrev Config.wf (c : Config) : Prop := 1 ≤ c.capacity ∧ 0 < c.baud

/-- A string operand is a sequence of at least `len` bytes (R94). Every other operand is a byte, all 256 of them
legal (R53). -/
def Instr.wellFormed : Instr → Bool
  | .init => true
  | .tryPut _ => true
  | .put _ => true
  | .tryPutString bs len => decide (len ≤ bs.length)
  | .putString bs len => decide (len ≤ bs.length)
  | .tick => true
  | .tickEmit => true
  | .tickLoad => true
  | .tickNop => true
  | .store _ => true
  | .tryEnqueue _ => true
  | .enqueue _ => true
  | .dequeue => true
  | .arm => true
  | .armClr => true

/-- The operations that the command port can carry: the five commands of R88, a string no longer than 255 (R93). The
internal operations and the TICK have no encoding (R92). -/
def Instr.fitsPort : Instr → Bool
  | .init => true
  | .tryPut _ => true
  | .put _ => true
  | .tryPutString bs len => decide (len ≤ bs.length) && decide (len ≤ 255)
  | .putString bs len => decide (len ≤ bs.length) && decide (len ≤ 255)
  | .tick => false
  | .tickEmit => false
  | .tickLoad => false
  | .tickNop => false
  | .store _ => false
  | .tryEnqueue _ => false
  | .enqueue _ => false
  | .dequeue => false
  | .arm => false
  | .armClr => false

end Sys2Proof
end

