-- ==== Sys2Proof/Decode.lean ====
section
/-! DEFINITION. The decoder of the command port (R86 to R89, R93), the selector of a TICK (R91), and the encoder, which
is written from the same table. -/

namespace Sys2Proof

/-- Why a word of the command port is refused (R89). -/
inductive DecodeError where
  /-- `OP` in 0x5..0xF -/
  | reservedOp
  /-- the field `ZERO` is not 0000 -/
  | zeroField
  /-- `INIT` with `ARG` not 0x00 -/
  | initArgument
  /-- a payload word with bits 15:8 not zero -/
  | payloadHigh
  deriving DecidableEq, Repr

/-- What reading the command port gives: something read, with the words after it; not all its words have arrived; or a
reserved encoding. -/
inductive Fetched (α : Type) where
  | got (value : α) (rest : List CmdWord)
  | incomplete
  | reject (why : DecodeError)
  deriving DecidableEq, Repr

/-- `OP`, bits 15:12 (R86). -/
def opField (w : CmdWord) : BitVec 4 := w.extractLsb' 12 4

/-- `ZERO`, bits 11:8 (R86). -/
def zeroField (w : CmdWord) : BitVec 4 := w.extractLsb' 8 4

/-- `ARG`, bits 7:0 (R86). -/
def argField (w : CmdWord) : Byte := w.extractLsb' 0 8

/-- Bits 15:8 of a payload word (R87). -/
def payloadHigh (w : CmdWord) : Byte := w.extractLsb' 8 8

/-- The `n` payload words of a string, in ascending index (R87). They are data whatever their bits 7:0 are; a word
whose bits 15:8 are not zero is refused (R89), also when later ones have not arrived. -/
def readPayload : Nat → List CmdWord → Fetched (List Byte)
  | 0, ws => .got [] ws
  | _ + 1, [] => .incomplete
  | n + 1, w :: ws =>
    if payloadHigh w = 0#8 then
      match readPayload n ws with
      | .got bs rest => .got (argField w :: bs) rest
      | .incomplete => .incomplete
      | .reject why => .reject why
    else .reject .payloadHigh

/-- A string command from its payload. -/
def withPayload (make : List Byte → Instr) : Fetched (List Byte) → Fetched Instr
  | .got bs rest => .got (make bs) rest
  | .incomplete => .incomplete
  | .reject why => .reject why

/-- The next command on the port (R88, R93). -/
def decode : List CmdWord → Fetched Instr
  | [] => .incomplete
  | w :: ws =>
    if zeroField w = 0#4 then
      match (opField w).toNat with
      | 0 => if argField w = 0#8 then .got .init ws else .reject .initArgument
      | 1 => .got (.tryPut (argField w)) ws
      | 2 => .got (.put (argField w)) ws
      | 3 => withPayload (fun bs => .tryPutString bs (argField w).toNat) (readPayload (argField w).toNat ws)
      | 4 => withPayload (fun bs => .putString bs (argField w).toNat) (readPayload (argField w).toNat ws)
      | _ => .reject .reservedOp
    else .reject .zeroField

/-- The arm that a selector stands for (R91): `1x` emits, `01` loads, `00` does nothing. -/
def decodeSelector (sq : Selector) : Instr :=
  if sq.getLsbD 1 then .tickEmit else if sq.getLsbD 0 then .tickLoad else .tickNop

/-- A command word from its fields (R86): `OP` in bits 15:12, `ARG` in bits 7:0, zero between them. -/
def commandWord (op : BitVec 4) (arg : Byte) : CmdWord := (op.setWidth 16 <<< 12) ||| arg.setWidth 16

/-- A payload word (R87): the byte in bits 7:0, zero above it. -/
def payloadWord (b : Byte) : CmdWord := b.setWidth 16

/-- The words of a string command (R87, R88): its command word and one payload word for each of its `len` bytes. -/
def stringWords (op : BitVec 4) (bs : List Byte) (len : Nat) : List CmdWord :=
  commandWord op (BitVec.ofNat 8 len) :: (bs.take len).map payloadWord

/-- The words of an instruction on the command port (R88); none for one the port cannot carry (R92, R93). -/
def encode (i : Instr) : Option (List CmdWord) :=
  if i.fitsPort then
    match i with
    | .init => some [commandWord 0 0]
    | .tryPut b => some [commandWord 1 b]
    | .put b => some [commandWord 2 b]
    | .tryPutString bs len => some (stringWords 3 bs len)
    | .putString bs len => some (stringWords 4 bs len)
    | .tick => none
    | .tickEmit => none
    | .tickLoad => none
    | .tickNop => none
    | .store _ => none
    | .tryEnqueue _ => none
    | .enqueue _ => none
    | .dequeue => none
    | .arm => none
    | .armClr => none
  else none

/-- The selectors that stand for an arm of the TICK (R91); none for any other operation. -/
def selectorsOf : Instr → List Selector
  | .tickEmit => [0b10, 0b11]
  | .tickLoad => [0b01]
  | .tickNop => [0b00]
  | .init => []
  | .tryPut _ => []
  | .put _ => []
  | .tryPutString _ _ => []
  | .putString _ _ => []
  | .tick => []
  | .store _ => []
  | .tryEnqueue _ => []
  | .enqueue _ => []
  | .dequeue => []
  | .arm => []
  | .armClr => []

/-- An instruction with its string operand cut to the bytes that are used (R94: only `bs[0] .. bs[len-1]`). -/
def trimmed : Instr → Instr
  | .tryPutString bs len => .tryPutString (bs.take len) len
  | .putString bs len => .putString (bs.take len) len
  | .init => .init
  | .tryPut b => .tryPut b
  | .put b => .put b
  | .tick => .tick
  | .tickEmit => .tickEmit
  | .tickLoad => .tickLoad
  | .tickNop => .tickNop
  | .store b => .store b
  | .tryEnqueue b => .tryEnqueue b
  | .enqueue b => .enqueue b
  | .dequeue => .dequeue
  | .arm => .arm
  | .armClr => .armClr

/-- How many payload words follow a command word (R93). -/
def payloadCount (w : CmdWord) : Nat :=
  match (opField w).toNat with
  | 3 => (argField w).toNat
  | 4 => (argField w).toNat
  | _ => 0

/-- The port words of an instruction whose bits are `w`, numbered as the opcode table numbers them: bit 0 is the least
significant bit of the first word, later words count on, and the bits above `nbits` are zero. -/
def tableWords (nbits w : Nat) : List CmdWord :=
  let v := w % 2 ^ nbits
  let first := BitVec.ofNat 16 v
  first :: (List.range (payloadCount first)).map fun k => BitVec.ofNat 16 (v >>> (16 * (k + 1)))

/-- What the decoder reads from a row of the opcode table. A row of 16 bits is a command word. A row of one byte is the
two-bit selector of a TICK (format TICKSEL), whose other bits do not exist and must be zero. -/
def decodeTableWord (nbits w : Nat) : Option Instr :=
  if nbits ≤ 8 then
    if w < 4 then some (decodeSelector (BitVec.ofNat 2 w)) else none
  else
    match decode (tableWords nbits w) with
    | .got i _ => some i
    | .incomplete => none
    | .reject _ => none

end Sys2Proof
end

