-- ==== Sys2Proof/Machine/State.lean ====
section
/-! DEFINITION. The state of the machine as plain data: the ten elements of R20, then what R39 and R35 say is not state
of the engine but which one deterministic step needs to be given (build parameters, environment inputs) or to hand
out (samples and results). -/

namespace Sys2Proof.Machine

/-- The ring storage: (slot, byte) pairs, slots strictly rising. A slot that is not listed was never stored to since the
launch; it reads as no stored byte. -/
abbrev Memory := List Host.Cell

/-- The next micro-operation of a command in progress (R36; the names are those of R163 to R166). -/
inductive Pos where
  /-- `TRY_PUT` before its `TRY_ENQUEUE` -/
  | start
  /-- `TRY_PUT_STRING` before its free-space test -/
  | checking
  /-- a blocking operation before a poll of `count` -/
  | polling
  /-- before the `STORE` of byte `i` -/
  | storing (i : Nat)
  /-- before `ARM` or `ARM_CLR` -/
  | arming
  deriving DecidableEq, Repr

/-- `prod`, the producer's sequencing state (R36): `ProdIdle` or `In(cmd, pos)`. -/
inductive Producer where
  | idle
  | running (cmd : Instr) (pos : Pos)
  deriving DecidableEq, Repr

/-- What an operation hands to its caller when it ends (R35, R94, R191; the byte is that of `DEQUEUE`, R112). Its code on
the signal `rsp` is `Result.rspBit`. -/
inductive Result where
  | done
  | ok
  | busy
  | byte (c : Byte)
  deriving DecidableEq, Repr

/-- Why the machine stops with a fault. -/
inductive Fault where
  /-- `DEQUEUE` with `count = 0` (R112, U1). Raised by the pop that `DEQUEUE` and `TICK_LOAD` share. Safe: the machine
  stops; no TICK reaches it. -/
  | dequeueEmpty
  /-- An access to a ring slot outside `[0, N)` (R50, R52: no such slot exists). Raised by a store or a pop whose index
  is out of range. Safe: the machine stops; no state that meets the queue invariant R25 reaches it. -/
  | noSuchSlot
  deriving DecidableEq, Repr

/-- Why an operation is given no meaning. -/
inductive Refusal where
  /-- An operation of the table that has no meaning in the model yet. Raised by the dispatch only. Safe. -/
  | notModelled (mnemonic : String)
  /-- A reserved encoding on the command port (R89, U12). Raised by the producer's turn when it decodes the port. Safe:
  no state change. -/
  | reservedWord (why : DecodeError)
  /-- A TICK when it is not deliverable (R196: it does not happen). Raised by `TICK` and its three arms performed by
  themselves. Safe; the step of the machine never asks for it. -/
  | tickNotEnabled
  /-- An arm of the TICK that the selector does not select (R91, R130: exactly one arm runs). Raised by the three arms
  performed by themselves. Safe; the step of the machine never asks for it. -/
  | armNotSelected
  /-- A command issued while another one is in progress (R36, R168, R240, U10). Raised by the commands and `ENQUEUE`.
  Safe; the step of the machine never asks for it. -/
  | commandInProgress
  /-- A producer state `In(cmd, pos)` that R163 to R166 do not lay out. Raised by the commands and `ENQUEUE`. Safe: no
  such state is reached. -/
  | noSuchPosition
  /-- A producer state `In(cmd, pos)` that holds an operation which is no operation of several steps of mainline, such as
  `DEQUEUE` or a TICK (R201, D27, U11: a use outside its context is refused). Raised by the producer's turn. Safe: no state
  that meets the invariant reaches it. -/
  | outsideContext
  /-- A command other than `INIT`, or a TICK, before `INIT` has been performed (R232, U9: every element is unspecified
  then), and `INIT` itself there while the unspecified producer state is not idle (log entry 12). Raised by the turns of the
  two agents. Safe: no state after `INIT` reaches it. -/
  | beforeInit
  /-- `STORE` with `count = N` (R113's precondition; R240: a run that breaks it is refused). Raised by the shared store.
  Safe: no state that meets the invariant reaches it. -/
  | storeWhileFull
  /-- A string operand shorter than its `len` (R94 asks for at least `len` bytes). Raised by the store of the missing
  byte. Safe: no well-formed instruction reaches it. -/
  | stringTooShort
  deriving DecidableEq, Repr

/-- The state of the machine. -/
structure State where
  /-- `buf[0..N-1]` (R21) -/
  buf : Memory
  /-- `rd`, the read index (R22) -/
  rd : Nat
  /-- `wr`, the write index (R23) -/
  wr : Nat
  /-- `count`, the number of occupied slots (R24) -/
  count : Nat
  /-- `shift`, the frame shift register (R27) -/
  shift : ShiftReg
  /-- `armed`: the tick source is enabled (R30) -/
  armed : Bool
  /-- `tick_pending`: a bit period has elapsed and the handler has not run for it (R32) -/
  tickPending : Bool
  /-- `ie`: interrupts may be delivered (R33) -/
  ie : Bool
  /-- `tx`, the level of the output pin (R34) -/
  tx : Bool
  /-- `prod`, the producer's sequencing state (R36) -/
  prod : Producer
  /-- `N`, `PARITY`, `BAUD` (R7, R39): not state of the engine, written by no step (log entry 1) -/
  cfg : Config
  /-- the words that wait on the signal `cmd` (R56), first word first: the producer's program (R39) -/
  cmd : List CmdWord
  /-- the events that are laid down for the next steps, next one first (log entry 2) -/
  sched : List Event
  /-- how many free events have been drawn: the model's own counter (log entry 2) -/
  drawn : Nat
  /-- `INIT` has been performed: before that every element above is unspecified and only `INIT` has a meaning (R230,
  R232; log entry 12) -/
  booted : Bool
  /-- the levels of `tx` sampled at the end of each TICK, oldest first (R144; log entry 3) -/
  trace : List Bool
  /-- the values handed to the callers of operations, oldest first (R35; log entry 3) -/
  results : List Result
  /-- the signal `rsp`: the bit given with the done event of each command that has ended, oldest first (R56, R90; log
  entry 3) -/
  rsp : List Bool
  deriving DecidableEq, Repr

/-- A launch state (R40, R230): the state right after `INIT`, for every content of `buf`, both values of `tick_pending`
and the premise `IE0`, with nothing on the command port and no event laid down. -/
def State.launch (cfg : Config) (buf : Memory) (pending ie0 : Bool) : State :=
  { buf := buf, rd := 0, wr := 0, count := 0, shift := 0#12, armed := false, tickPending := pending, ie := ie0,
    tx := true, prod := .idle, cfg := cfg, cmd := [], sched := [], drawn := 0, booted := true, trace := [], results := [],
    rsp := [] }

/-- The parameters of the reset state (log entry 1): the source's scenarios use `N = 4`; the spec fixes none. -/
def resetConfig : Config := { capacity := 4, parity := .none, baud := 9600 }

/-- The state right after reset, which for this engine means after `INIT` (R40, R230). What the spec leaves open there is
chosen: no slot stored to, `tick_pending = 0`, `IE0 = 0` (log entries 4, 6, 7). -/
def State.reset : State := State.launch resetConfig [] false false

end Sys2Proof.Machine
end

