-- ==== Sys2Proof/Machine/Memory.lean ====
section
/-! DEFINITION. The ring storage: its canonical form, and the read and the write of one slot (R50, R53). -/

namespace Sys2Proof.Machine

/-- The canonical form: slots strictly rising. An unlisted slot reads as no byte, so no entry can equal what its slot
would read as unlisted. -/
abbrev Memory.wf (m : Memory) : Prop := m.Pairwise fun p q => p.1 < q.1

/-- The byte stored in slot `a`; none where nothing was ever stored (log entry 4). -/
def Memory.read : Memory → Nat → Option Byte
  | [], _ => none
  | (x, v) :: m, a => if x = a then some v else Memory.read m a

/-- `MemWrite(a, 1, b)`: slot `a` takes byte `b` (R11). -/
def Memory.write : Memory → Nat → Byte → Memory
  | [], a, b => [(a, b)]
  | (x, v) :: m, a, b =>
    if a < x then (a, b) :: (x, v) :: m
    else if a = x then (a, b) :: m
    else (x, v) :: Memory.write m a b

/-- `MemRead(a, 1)`: the byte in slot `a` (R11); for a slot never stored to, a free value that depends on the slot only
(R21, U6). -/
def Memory.slot (m : Memory) (a : Nat) : Byte :=
  match m.read a with
  | some b => b
  | none => Config.powerUpByte a

end Sys2Proof.Machine
end

