-- ==== Sys2Proof/Machine/Flags.lean ====
section
/-! DEFINITION. The derived predicates of the state: the engine's condition flags (R26, R28), the selector of a TICK
(R91) and the delivery condition (R196). None of them is stored. -/

namespace Sys2Proof.Machine

/-- `empty := (count = 0)` (R26). -/
def State.isEmpty (s : State) : Bool := decide (s.count = 0)

/-- `full := (count = N)` (R26). -/
def State.isFull (s : State) : Bool := decide (s.count = s.cfg.capacity)

/-- `free := N - count` (R26). -/
def State.free (s : State) : Nat := s.cfg.capacity - s.count

/-- `Sending := (shift != 0)` (R28); its negation is `Idle`. -/
def State.sending (s : State) : Bool := decide (s.shift ≠ 0#12)

/-- The selector `{s, q}` of a TICK (R91): `s = (shift != 0)`, `q = (count != 0)`. -/
def State.selector (s : State) : Selector := BitVec.ofBool s.sending ++ BitVec.ofBool (!s.isEmpty)

/-- A TICK may occur exactly when `armed = 1 and ie = 1 and tick_pending = 1` (R196; log entry 8). -/
def State.tickEnabled (s : State) : Bool := s.armed && s.ie && s.tickPending

end Sys2Proof.Machine
end

