-- ==== Sys2Proof/Machine/Operands.lean ====
section
/-! DEFINITION. The operands of the operations: where a command stands (R36), the bytes of a string (R94), the index
arithmetic of the ring (R54). -/

namespace Sys2Proof.Machine

/-- The position at which an operation begins (R163 to R166, R111). An operation of one step begins at `start`. -/
def entryPos : Instr → Pos
  | .init => .start
  | .tryPut _ => .start
  | .put _ => .polling
  | .tryPutString _ _ => .checking
  | .putString _ _ => .polling
  | .tick => .start
  | .tickEmit => .start
  | .tickLoad => .start
  | .tickNop => .start
  | .store _ => .start
  | .tryEnqueue _ => .start
  | .enqueue _ => .polling
  | .dequeue => .start
  | .arm => .start
  | .armClr => .start

/-- The operations that `In(cmd, pos)` can hold: those of several steps that mainline performs (R36, R163 to R166, and R111
for an `ENQUEUE` by itself; R201). -/
def hasPositions : Instr → Bool
  | .tryPut _ => true
  | .put _ => true
  | .tryPutString _ _ => true
  | .putString _ _ => true
  | .enqueue _ => true
  | .init => false
  | .tick => false
  | .tickEmit => false
  | .tickLoad => false
  | .tickNop => false
  | .store _ => false
  | .tryEnqueue _ => false
  | .dequeue => false
  | .arm => false
  | .armClr => false

/-- Where the operation `i` stands: at its beginning if the producer is idle, at its own position if it is the command
in progress, nowhere if another command is in progress (R36: no other command may be issued then). -/
def position (i : Instr) (s : State) : Option Pos :=
  match s.prod with
  | .idle => some (entryPos i)
  | .running j pos => if j = i then some pos else none

/-- `bs[i]` (R94). -/
def stringByte (bs : List Byte) (i : Nat) : Option Byte := bs[i]?

/-- Where a string command of length `len` goes when its bytes before `i` are stored: to the store of byte `i`, or to its
arming step when there is none (R165, R166, R170). -/
def stringPos (len i : Nat) : Pos := if i < len then .storing i else .arming

/-- `(i + 1) mod N` (R54). -/
def advance (n i : Nat) : Nat := (i + 1) % n

end Sys2Proof.Machine
end

