-- ==== Sys2Proof/Machine/Frame.lean ====
section
/-! DEFINITION. The frame word (R80 to R85) and the receiver's view of a frame (R96). -/

namespace Sys2Proof.Machine

/-- `W_F`: 11 without parity, 12 with (R8). -/
def frameWidth : Parity → Nat
  | .none => 11
  | .even => 12
  | .odd => 12

/-- `parity_bit(c)` (R82): an accumulator, seeded with 1 for odd and 0 for even parity, toggled by each set bit of `c`. -/
def parityBit (seed : Bool) (c : Byte) : Bool :=
  (List.range 8).foldl (fun acc i => if c.getLsbD i then !acc else acc) seed

/-- The frame word without parity (R80): `(0b11 << 9) | (c << 1)`. -/
def plainFrame (c : Byte) : ShiftReg := (0b11 <<< 9) ||| (c.setWidth 12 <<< 1)

/-- The frame word with a parity bit (R81): `(0b11 << 10) | (parity_bit << 9) | (c << 1)`. -/
def parityFrame (p : Bool) (c : Byte) : ShiftReg :=
  (0b11 <<< 10) ||| ((BitVec.ofBool p).setWidth 12 <<< 9) ||| (c.setWidth 12 <<< 1)

/-- `frame(c)` (R83). -/
def frame : Parity → Byte → ShiftReg
  | .none, c => plainFrame c
  | .even, c => parityFrame (parityBit false c) c
  | .odd, c => parityFrame (parityBit true c) c

/-- The levels of a frame in wire order: bit 0 first (R84). -/
def frameBits (p : Parity) (c : Byte) : List Bool := (List.range (frameWidth p)).map fun k => (frame p c).getLsbD k

/-- The byte whose bits are the first eight levels of a list, bit 0 first. -/
def byteOfBits (l : List Bool) : Byte :=
  BitVec.ofNat 8 ((List.range 8).foldl (fun acc i => if l.getD i false then acc + 2 ^ i else acc) 0)

/-- The parity level that follows the data of a valid frame of `c` (R96); none without parity. -/
def parityLevels : Parity → Byte → List Bool
  | .none, _ => []
  | .even, c => [parityBit false c]
  | .odd, c => [parityBit true c]

/-- The receiver's view (R96): the byte of which a list of `W_F` levels is a valid frame. The start level is 0, eight data
levels follow, then the parity level if parity is configured, then two levels 1. -/
def receiveFrame (p : Parity) (l : List Bool) : Option Byte :=
  let c := byteOfBits (l.drop 1)
  if l.length = frameWidth p ∧ l.take 1 = [false] ∧ l.drop 9 = parityLevels p c ++ [true, true] then some c else none

end Sys2Proof.Machine
end

