-- ==== Sys2Proof/Machine/Ops.lean ====
section
/-! DEFINITION. The operations that the meanings share: sequencing, the critical section (R57), the push and the pop of
the ring, polls, arming, and taking a TICK (R198, R199), which is this engine's one exception entry and return. -/

namespace Sys2Proof.Machine

/-- What a shared operation answers. -/
abbrev Res (α : Type) := Host.Outcome α Fault Refusal

/-- `o ; f`: go on with `f` where `o` answers a next value. -/
def andThen {α β : Type} (o : Res α) (f : α → Res β) : Res β :=
  match o with
  | .next a => f a
  | .fault r => .fault r
  | .refused r => .refused r

/-- `crit { body }` (R57): `saved <- ie ; ie <- 0 ; body ; ie <- saved`, one atomic step. It restores, and never enables
(R244). -/
def crit {α : Type} (body : State → Res (State × α)) (s : State) : Res (State × α) :=
  andThen (body { s with ie := false }) fun r => .next ({ r.1 with ie := s.ie }, r.2)

/-- The code of a result (R90, R191): `OK` = 0, `BUSY` = 1, and 0 for the done of a command that has no result. The byte of
`DEQUEUE` is no result code and never stands on `rsp`. -/
def Result.rspBit : Result → Option Bool
  | .done => some false
  | .ok => some false
  | .busy => some true
  | .byte _ => none

/-- The done event of a command: the code of its result stands on `rsp` (R56, R90). -/
def State.signal (r : Result) (s : State) : State := { s with rsp := s.rsp ++ r.rspBit.toList }

/-- Hand a value to the caller (R35). -/
def State.report (r : Result) (s : State) : State := { s with results := s.results ++ [r] }

/-- The producer moves to position `pos` of command `i` (R36, R38). -/
def State.goto (i : Instr) (pos : Pos) (s : State) : State := { s with prod := .running i pos }

/-- The producer's operation ends: `prod` becomes `ProdIdle` (R36). -/
def State.endCommand (s : State) : State := { s with prod := .idle }

/-- The body of an enqueue (R110, R113): `buf[wr] <- b ; wr <- (wr + 1) mod N ; count <- count + 1`. -/
def pushByte (b : Byte) (s : State) : Res State :=
  if s.wr < s.cfg.capacity then
    .next { s with buf := s.buf.write s.wr b, wr := advance s.cfg.capacity s.wr, count := s.count + 1 }
  else .fault .noSuchSlot

/-- `STORE(b)` (R113): the push in a critical section, under the precondition `count < N`. -/
def storeByte (b : Byte) (s : State) : Res State :=
  if s.count < s.cfg.capacity then
    andThen (crit (fun t => andThen (pushByte b t) fun u => .next (u, ())) s) fun r => .next r.1
  else .refused .storeWhileFull

/-- `TRY_ENQUEUE(b)` (R110): the fullness test and the push in one critical section. -/
def tryEnqueueByte (b : Byte) (s : State) : Res (State × Result) :=
  crit (fun t => if t.isFull then .next (t, .busy) else andThen (pushByte b t) fun u => .next (u, .ok)) s

/-- `DEQUEUE()` (R112): the byte at `rd`, `rd <- (rd + 1) mod N`, `count <- count - 1`; a fault when `count = 0`. The slot
keeps its byte. -/
def popByte (s : State) : Res (State × Byte) :=
  if s.count = 0 then .fault .dequeueEmpty
  else if s.rd < s.cfg.capacity then
    .next ({ s with rd := advance s.cfg.capacity s.rd, count := s.count - 1 }, s.buf.slot s.rd)
  else .fault .noSuchSlot

/-- `poll(count)` (R59): one read of `count`, no side effect. -/
def poll (s : State) : Nat := s.count

/-- One iteration of a spin (R59, R111): the operation `i` goes on to `pos` if the polled value lets it, otherwise it
polls again. -/
def spinUntil (enough : Bool) (i : Instr) (pos : Pos) (s : State) : Res State :=
  .next (s.goto i (if enough then pos else .polling))

/-- The store of one byte of the command `i`, which then goes on to `pos` (R113). -/
def storeThen (b : Byte) (i : Instr) (pos : Pos) (s : State) : Res State :=
  andThen (storeByte b s) fun t => .next (t.goto i pos)

/-- The store of byte `k` of the string command `i` (R165, R166: ascending index, one critical section each). -/
def storeStringByte (bs : List Byte) (len k : Nat) (i : Instr) (s : State) : Res State :=
  match stringByte bs k with
  | some b => storeThen b i (stringPos len (k + 1)) s
  | none => .refused .stringTooShort

/-- `ARM` (R161): `armed <- 1`. -/
def State.armTick (s : State) : State := { s with armed := true }

/-- `ARM_CLR` (R162): `armed <- 1 ; tick_pending <- 0`. -/
def State.armTickClear (s : State) : State := { s with armed := true, tickPending := false }

/-- A command ends with result `r`: the producer is idle, the caller has the result, and `rsp` signals it (R36, R90). -/
def State.finish (r : Result) (s : State) : State := (s.endCommand.report r).signal r

/-- Entry of the handler (R198): `tick_pending <- 0`. Nothing is saved; the mask it runs under and lifts again on return
(R199) is not seen by any other step, because a whole TICK is one step (R37). -/
def State.enterHandler (s : State) : State := { s with tickPending := false }

/-- Return of the handler (R199): nothing is restored; the level of `tx` at the end of the TICK is the next sample of the
trace (R144). -/
def State.leaveHandler (s : State) : State := { s with trace := s.trace ++ [s.tx] }

/-- Take a TICK (R196, R198, R199): the handler is entered, runs `body`, and returns. Where a TICK is not deliverable it
does not happen, and where the selector names another arm than `which`, `which` does not run (R130). -/
def takeTick (which : Instr) (body : State → Res State) (s : State) : Res State :=
  if s.tickEnabled then
    if decodeSelector s.selector = which then
      andThen (body s.enterHandler) fun t => .next t.leaveHandler
    else .refused .armNotSelected
  else .refused .tickNotEnabled

/-- The body of `TICK_EMIT` (R131): the bit at position 0 goes to the pin, the register shifts right, and the source is
disarmed when the shifted value is zero and the queue is empty. -/
def emitBit (s : State) : Res State :=
  .next { s with
    tx := s.shift.getLsbD 0
    shift := s.shift >>> 1
    armed := if s.shift >>> 1 = 0#12 ∧ s.count = 0 then false else s.armed }

/-- The body of `TICK_LOAD` (R132): `c <- DEQUEUE() ; shift <- frame(c)`. -/
def loadFrame (s : State) : Res State :=
  andThen (popByte s) fun r => .next { r.1 with shift := frame r.1.cfg.parity r.2 }

/-- The body of `TICK_NOP` (R133): no state change. -/
def noAction (s : State) : Res State := .next s

end Sys2Proof.Machine
end

