-- ==== Sys2Proof/Machine/Api.lean ====
section
/-! DEFINITION. The public commands and the two arming micro-operations (42_api.md). A command is a sequence of atomic
steps between which a TICK may fall, so its meaning is its NEXT step: the first one when the producer is idle, and the
one at its position when it is in progress (log entry 9). -/

namespace Sys2Proof.Machine

/-- `INIT` (R160): one atomic step; `buf`, `tick_pending` and `ie` are not written. It is issued by an idle producer only
(R168), also before the first `INIT`, where that is the model's choice (log entry 12). -/
def execInit (s : State) : Res State :=
  match s.prod with
  | .idle =>
    .next (State.finish .done
      { s with rd := 0, wr := 0, count := 0, shift := 0#12, armed := false, tx := true, booted := true })
  | .running _ _ => .refused .commandInProgress

/-- `ARM` (R161). -/
def execArm (s : State) : Res State := .next s.armTick

/-- `ARM_CLR` (R162). -/
def execArmClr (s : State) : Res State := .next s.armTickClear

/-- The next step of `TRY_PUT(b)` (R163): `TRY_ENQUEUE`, which ends the command on `BUSY`, then `ARM`. -/
def execTryPut (b : Byte) (s : State) : Res State :=
  match position (.tryPut b) s with
  | some .start =>
    andThen (tryEnqueueByte b s) fun r =>
      if r.2 = .busy then .next (r.1.finish .busy) else .next (r.1.goto (.tryPut b) .arming)
  | some .arming => .next (s.armTick.finish .ok)
  | some _ => .refused .noSuchPosition
  | none => .refused .commandInProgress

/-- The next step of `PUT(b)` (R164): a poll, until one finds `count < N`, then the store, then `ARM_CLR`. -/
def execPut (b : Byte) (s : State) : Res State :=
  match position (.put b) s with
  | some .polling => spinUntil (decide (poll s < s.cfg.capacity)) (.put b) (.storing 0) s
  | some (.storing 0) => storeThen b (.put b) .arming s
  | some .arming => .next (s.armTickClear.finish .done)
  | some _ => .refused .noSuchPosition
  | none => .refused .commandInProgress

/-- The next step of `TRY_PUT_STRING(bs, len)` (R165): the free-space test, which ends the command with `BUSY` when it
fails, then one store for each byte, then `ARM`. -/
def execTryPutString (bs : List Byte) (len : Nat) (s : State) : Res State :=
  match position (.tryPutString bs len) s with
  | some .checking =>
    if s.cfg.capacity - poll s < len then .next (s.finish .busy)
    else .next (s.goto (.tryPutString bs len) (stringPos len 0))
  | some (.storing k) => storeStringByte bs len k (.tryPutString bs len) s
  | some .arming => .next (s.armTick.finish .ok)
  | some _ => .refused .noSuchPosition
  | none => .refused .commandInProgress

/-- The next step of `PUT_STRING(bs, len)` (R166): a poll, until one finds `N - count >= len`, then one store for each
byte, then `ARM_CLR`. -/
def execPutString (bs : List Byte) (len : Nat) (s : State) : Res State :=
  match position (.putString bs len) s with
  | some .polling =>
    spinUntil (decide (len ≤ s.cfg.capacity - poll s)) (.putString bs len) (stringPos len 0) s
  | some (.storing k) => storeStringByte bs len k (.putString bs len) s
  | some .arming => .next (s.armTickClear.finish .done)
  | some _ => .refused .noSuchPosition
  | none => .refused .commandInProgress

end Sys2Proof.Machine
end

