-- ==== Sys2Proof/Machine/FrameEngine.lean ====
section
/-! DEFINITION. The handler: TICK and its three arms (41_frameengine.md). -/

namespace Sys2Proof.Machine

/-- A TICK that takes arm 1, `TICK_EMIT` (R131). -/
def execTickEmit (s : State) : Res State := takeTick .tickEmit emitBit s

/-- A TICK that takes arm 2, `TICK_LOAD` (R132). -/
def execTickLoad (s : State) : Res State := takeTick .tickLoad loadFrame s

/-- A TICK that takes arm 3, `TICK_NOP` (R133). -/
def execTickNop (s : State) : Res State := takeTick .tickNop noAction s

/-- `TICK` (R130): exactly one arm runs, by the tests made on the state at handler entry. -/
def execTick (s : State) : Res State :=
  if s.shift ≠ 0#12 then execTickEmit s
  else if s.count ≠ 0 then execTickLoad s
  else execTickNop s

end Sys2Proof.Machine
end

