-- ==== Sys2Proof/Machine/Queue.lean ====
section
/-! DEFINITION. The queue micro-operations: STORE, TRY_ENQUEUE, ENQUEUE, DEQUEUE (40_txqueue.md). -/

namespace Sys2Proof.Machine

/-- `STORE(b)` (R113). -/
def execStore (b : Byte) (s : State) : Res State := storeByte b s

/-- `TRY_ENQUEUE(b)` (R110); the result `OK` or `BUSY` goes to the caller. -/
def execTryEnqueue (b : Byte) (s : State) : Res State :=
  andThen (tryEnqueueByte b s) fun r => .next (r.1.report r.2)

/-- The next step of `ENQUEUE(b)` (R111): a poll, until one finds `count < N`, then the store. -/
def execEnqueue (b : Byte) (s : State) : Res State :=
  match position (.enqueue b) s with
  | some .polling => spinUntil (decide (poll s < s.cfg.capacity)) (.enqueue b) (.storing 0) s
  | some (.storing 0) => andThen (storeByte b s) fun t => .next t.endCommand
  | some _ => .refused .noSuchPosition
  | none => .refused .commandInProgress

/-- `DEQUEUE()` (R112); the byte goes to the caller. -/
def execDequeue (s : State) : Res State :=
  andThen (popByte s) fun r => .next (r.1.report (.byte r.2))

end Sys2Proof.Machine
end

