-- ==== Sys2Proof/Machine/Dispatch.lean ====
section
/-! DEFINITION. The dispatch: one arm for each operation. -/

namespace Sys2Proof.Machine

/-- What an operation does to the state: one atomic step of it. -/
def exec (i : Instr) (s : State) : Host.Outcome State Fault Refusal :=
  match i with
  | .init => Sys2Proof.Machine.execInit s
  | .tryPut b => Sys2Proof.Machine.execTryPut b s
  | .put b => Sys2Proof.Machine.execPut b s
  | .tryPutString bs len => Sys2Proof.Machine.execTryPutString bs len s
  | .putString bs len => Sys2Proof.Machine.execPutString bs len s
  | .tick => Sys2Proof.Machine.execTick s
  | .tickEmit => Sys2Proof.Machine.execTickEmit s
  | .tickLoad => Sys2Proof.Machine.execTickLoad s
  | .tickNop => Sys2Proof.Machine.execTickNop s
  | .store b => Sys2Proof.Machine.execStore b s
  | .tryEnqueue b => Sys2Proof.Machine.execTryEnqueue b s
  | .enqueue b => Sys2Proof.Machine.execEnqueue b s
  | .dequeue => Sys2Proof.Machine.execDequeue s
  | .arm => Sys2Proof.Machine.execArm s
  | .armClr => Sys2Proof.Machine.execArmClr s

end Sys2Proof.Machine
end

