-- ==== Sys2Proof/Machine/Agents.lean ====
section
/-! DEFINITION. Who moves next and what it then does: the producer, the handler and the environment (R60, R197, R201),
and how an instruction is laid before the next step. -/

namespace Sys2Proof.Machine

/-- The event of the next step, and the state with it taken off: the next one laid down or, when none is, a free value
(log entry 2). -/
def nextEvent (s : State) : Event × State :=
  match s.sched with
  | e :: es => (e, { s with sched := es })
  | [] => (Config.freeEvent s.drawn, { s with drawn := s.drawn + 1 })

/-- The producer's turn (R36, R168). A command in progress takes its next step; an idle producer issues the next command
of the port, or waits while the words of one have not all arrived (log entry 10). A reserved encoding is refused
(R89), and so is every command but `INIT` before `INIT` (R232). An operation in progress that is none of mainline's is
refused (R201, D27). DESIGN CHOICE: before `INIT`, when the producer's state is unspecified too, `INIT` runs from an idle
producer only (log entry 12). -/
def producerTurn (s : State) : Res State :=
  match s.prod with
  | .running i _ =>
    if s.booted then
      if hasPositions i then exec i s else .refused .outsideContext
    else .refused .beforeInit
  | .idle =>
    match decode s.cmd with
    | .got i rest => if s.booted ∨ i = .init then exec i { s with cmd := rest } else .refused .beforeInit
    | .incomplete => .next s
    | .reject why => .refused (.reservedWord why)

/-- The handler's turn: a TICK where one is deliverable (R196); otherwise the handler is not invoked. A
TICK before `INIT` has no meaning (R232). -/
def handlerTurn (s : State) : Res State :=
  if s.tickEnabled then
    if s.booted then exec .tick s else .refused .beforeInit
  else .next s

/-- What an event does. A period boundary sets `tick_pending`, armed or not (R195); the environment drives `ie` (R33) and
brings words to the port (R56). -/
def runEvent (e : Event) (s : State) : Res State :=
  match e with
  | .producer => producerTurn s
  | .handler => handlerTurn s
  | .period => .next { s with tickPending := true }
  | .setIe v => .next { s with ie := v }
  | .deliver ws => .next { s with cmd := s.cmd ++ ws }

/-- The state in which the next step issues the command with the words `ws`: they come first on the port, the producer is
idle and moves next. -/
def State.withCommand (ws : List CmdWord) (s : State) : State :=
  { s with cmd := ws ++ s.cmd, prod := .idle, booted := true, sched := .producer :: s.sched }

/-- The queue that the bit `q` of a selector asks for: empty for 0; for 1 the queue as it is or, if it is empty, with the
one byte 0x00 in slot `rd`. -/
def State.withQueueBit (q : Bool) (s : State) : State :=
  if q then
    if s.count = 0 then
      { s with buf := s.buf.write s.rd 0, wr := advance s.cfg.capacity s.rd, count := 1 }
    else s
  else { s with wr := s.rd, count := 0 }

/-- The shift register that the bit `s` of a selector asks for: zero for 0; for 1 the frame in flight or, if there is
none, one last stop bit. -/
def State.withShiftBit (sending : Bool) (s : State) : State :=
  if sending then (if s.shift = 0#12 then { s with shift := 1#12 } else s) else { s with shift := 0#12 }

/-- The state in which the next step is a TICK with the selector `sq`: the predicates of the state are made so, a TICK is
deliverable, and the handler moves next. -/
def State.withSelector (sq : Selector) (s : State) : State :=
  { (s.withQueueBit (sq.getLsbD 0)).withShiftBit (sq.getLsbD 1) with
    armed := true, ie := true, tickPending := true, booted := true, sched := .handler :: s.sched }

end Sys2Proof.Machine
end

