-- ==== Sys2Proof/Machine/Step.lean ====
section
/-! DEFINITION. The step of the machine. -/

namespace Sys2Proof.Machine

/-- One step: the next event, and what it does. -/
def step (s : State) : Host.Outcome State Fault Refusal := runEvent (nextEvent s).1 (nextEvent s).2

/-- `s` with the instruction of a row of the opcode table laid where the next step takes it: a command word and its
payload on the command port, or the selector of a TICK in the predicates it is made of (log entry 11). -/
def State.withFetchWord (s : State) (nbits w : Nat) : State :=
  if nbits ≤ 8 then s.withSelector (BitVec.ofNat 2 w) else s.withCommand (tableWords nbits w)

end Sys2Proof.Machine
end

