-- ==== Sys2Proof/Safety.lean ====
section
/-! DEFINITION. The terms that claims use: launch states, the invariant of the machine, the bytes that wait, the line that
is still to be sent and the ledger of what was accepted and what was sent, and runs of one operation or of ticks. -/

namespace Sys2Proof.Machine

/-- How many stores a command makes in all (R163 to R166): its length, or one byte. -/
def storesOf : Instr → Nat
  | .tryPut _ => 1
  | .put _ => 1
  | .tryPutString _ len => len
  | .putString _ len => len
  | .enqueue _ => 1
  | .init => 0
  | .tick => 0
  | .tickEmit => 0
  | .tickLoad => 0
  | .tickNop => 0
  | .store _ => 1
  | .tryEnqueue _ => 1
  | .dequeue => 0
  | .arm => 0
  | .armClr => 0

/-- The results that each command can signal (R88, R90); an internal operation signals none. -/
def commandResults : Instr → List Result
  | .init => [.done]
  | .tryPut _ => [.ok, .busy]
  | .put _ => [.done]
  | .tryPutString _ _ => [.ok, .busy]
  | .putString _ _ => [.done]
  | .tick => []
  | .tickEmit => []
  | .tickLoad => []
  | .tickNop => []
  | .store _ => []
  | .tryEnqueue _ => []
  | .enqueue _ => []
  | .dequeue => []
  | .arm => []
  | .armClr => []

/-- The positions that R163 to R166 lay out for the four enqueuing commands. -/
def legalPos : Instr → Pos → Bool
  | .tryPut _, .start => true
  | .tryPut _, .arming => true
  | .put _, .polling => true
  | .put _, .storing k => k == 0
  | .put _, .arming => true
  | .tryPutString _ _, .checking => true
  | .tryPutString _ len, .storing k => decide (k < len)
  | .tryPutString _ _, .arming => true
  | .putString _ _, .polling => true
  | .putString _ len, .storing k => decide (k < len)
  | .putString _ _, .arming => true
  | _, _ => false

/-- How many slots the command in progress has been promised by its fullness test and not yet stored to (R64). -/
def Producer.promised : Producer → Nat
  | .running i (.storing k) => storesOf i - k
  | _ => 0

/-- The window of R169: a command has stored a byte and has not reached the end of its arming step. -/
def Producer.inWindow : Producer → Bool
  | .running _ (.storing k) => k != 0
  | .running _ .arming => true
  | _ => false

/-- The producer's state is one that R36 gives it: idle, or a well-formed command at a position of its own. -/
def Producer.legal : Producer → Bool
  | .idle => true
  | .running i pos => i.wellFormed && legalPos i pos

/-- The invariant of the machine: the queue invariants of R25, R44 and R64, the shift register of R29, the pin of R136,
the arm bit of R31 with its window. -/
structure State.Inv (s : State) : Prop where
  /-- legal parameters (R7) -/
  config : s.cfg.wf
  /-- the ring storage is in canonical form -/
  canonical : s.buf.wf
  /-- every stored slot exists (R50) -/
  slots : ∀ p ∈ s.buf, p.1 < s.cfg.capacity
  /-- `0 <= rd < N` (R25) -/
  rd_lt : s.rd < s.cfg.capacity
  /-- `0 <= count <= N` (R25), with room for what the command in progress was promised (R64) -/
  room : s.count + s.prod.promised ≤ s.cfg.capacity
  /-- `wr = (rd + count) mod N` (R44) -/
  wr_eq : s.wr = (s.rd + s.count) % s.cfg.capacity
  /-- the occupied slots were all stored to (R21) -/
  stored : ∀ k < s.count, (s.buf.read ((s.rd + k) % s.cfg.capacity)).isSome
  /-- `shift` is zero or a frame shifted right by fewer than `W_F` places (R29) -/
  inFlight : s.shift = 0#12 ∨ ∃ c k, k < frameWidth s.cfg.parity ∧ s.shift = frame s.cfg.parity c >>> k
  /-- the pin is at mark while no frame is in progress (R136) -/
  mark : s.shift = 0#12 → s.tx = true
  /-- disarmed implies idle, and empty outside the window between a store and its arming (R31, R169) -/
  disarmed : s.armed = false → s.shift = 0#12 ∧ (s.count = 0 ∨ s.prod.inWindow = true)
  /-- the producer's position is legal (R36) -/
  producer : s.prod.legal = true
  /-- `INIT` has been performed (R232) -/
  booted : s.booted = true

/-- The launch states of R230: the reset table of R40, for every content of `buf`, both values of `tick_pending`, every
`IE0`, and whatever the environment has laid down. -/
structure State.isLaunch (s : State) : Prop where
  config : s.cfg.wf
  canonical : s.buf.wf
  slots : ∀ p ∈ s.buf, p.1 < s.cfg.capacity
  rd : s.rd = 0
  wr : s.wr = 0
  count : s.count = 0
  shift : s.shift = 0#12
  armed : s.armed = false
  tx : s.tx = true
  prod : s.prod = .idle
  booted : s.booted = true

/-- The queued bytes, oldest first (R44). -/
def State.queued (s : State) : List Byte :=
  (List.range s.count).map fun k => s.buf.slot ((s.rd + k) % s.cfg.capacity)

/-- The number of bits still to emit (R29): the position of the last stop bit, plus one. -/
def bitsLeft (v : ShiftReg) : Nat := if v = 0#12 then 0 else v.toNat.log2 + 1

/-- The levels a shift register has still to emit, in time order. -/
def levelsLeft (v : ShiftReg) : List Bool := (List.range (bitsLeft v)).map fun k => v.getLsbD k

/-- The levels of the frames of some bytes, one frame after the other (R145). -/
def wireOf (p : Parity) (bytes : List Byte) : List Bool := bytes.flatMap (frameBits p)

/-- The levels that the engine has still to send: the rest of the frame in flight, then the frames of the queue (R63). -/
def State.lineAhead (s : State) : List Bool := levelsLeft s.shift ++ wireOf s.cfg.parity s.queued

/-- What has passed since the last `INIT`: the bytes accepted into the queue, and the levels emitted by emit ticks. -/
structure Ledger where
  accepted : List Byte
  emitted : List Bool
  deriving DecidableEq, Repr

/-- The next step issues `INIT`, which discards what is queued (R160, R171). -/
def State.issuesInit (s : State) : Bool :=
  match (nextEvent s).1, s.prod, decode (nextEvent s).2.cmd with
  | .producer, .idle, .got .init _ => true
  | _, _, _ => false

/-- The ledger after a step from `s` to `t`: a store is seen in `count`, and its byte lies in the slot `wr` of `s`; an emit
tick is a TICK taken while a frame is in progress, and its level is the new sample. -/
def Ledger.after (l : Ledger) (s t : State) : Ledger :=
  if s.issuesInit then { accepted := [], emitted := [] }
  else
    { accepted := l.accepted ++ (if t.count = s.count + 1 then [t.buf.slot s.wr] else [])
      emitted := l.emitted ++ (if s.shift ≠ 0#12 ∧ t.trace ≠ s.trace then [t.tx] else []) }

/-- The ledger balances: what was sent, followed by what is still to be sent, is the frames of the bytes accepted, in
order (R145). -/
def Ledger.balances (l : Ledger) (s : State) : Prop :=
  l.emitted ++ s.lineAhead = wireOf s.cfg.parity l.accepted

/-- `n` steps with the ledger kept; none where a step stops. -/
def runLedger : Nat → Ledger → State → Option (Ledger × State)
  | 0, l, s => some (l, s)
  | n + 1, l, s =>
    match step s with
    | .next t => runLedger n (l.after s t) t
    | .fault _ => none
    | .refused _ => none

/-- `n` steps of one operation with no other agent between them. -/
def execTimes : Nat → Instr → State → Host.Outcome State Fault Refusal
  | 0, _, s => .next s
  | n + 1, i, s =>
    match exec i s with
    | .next t => execTimes n i t
    | .fault r => .fault r
    | .refused r => .refused r

/-- The events of `n` bit periods in which only the tick source and the handler act. -/
def tickEvents : Nat → List Event
  | 0 => []
  | n + 1 => .period :: .handler :: tickEvents n

end Sys2Proof.Machine
end

