-- ==== Sys2Proof/Certificates/Slice0/Obligations.lean ====
section
/-! DEFINITION. The statements for the provers. Each docstring names the rule or the section of spec/ it formalises; where
a clause rests on a decision of the spec or a choice of the model, it names that too. -/

section
open Sys2Proof Sys2Proof.Machine

/-! ## Encodings -/

/-- The worked decodings of 95_test_vectors.md A15 and A16, and P4's payload word that is data and not an `INIT`. The
command words are the spec's decision D10. -/
def Obligations.WrittenOutWordsDecode : Prop :=
  decode [0x0000] = .got .init [] ∧
  decode [0x1041] = .got (.tryPut 0x41) [] ∧
  decode [0x20FF] = .got (.put 0xFF) [] ∧
  decode [0x3000, 0x0000] = .got (.tryPutString [] 0) [0x0000] ∧
  decode [0x3002, 0x00FF, 0x0000] = .got (.tryPutString [0xFF, 0x00] 2) [] ∧
  decode [0x4002, 0x0041, 0x0042] = .got (.putString [0x41, 0x42] 2) [] ∧
  decode [0x4002, 0x1041] = .reject .payloadHigh ∧
  decode [0x3001, 0x0141] = .reject .payloadHigh ∧
  decode [0x5000] = .reject .reservedOp ∧
  decode [0xF0FF] = .reject .reservedOp ∧
  decode [0x1141] = .reject .zeroField ∧
  decode [0x0001] = .reject .initArgument ∧
  decodeSelector 0b11 = .tickEmit ∧ decodeSelector 0b10 = .tickEmit ∧
  decodeSelector 0b01 = .tickLoad ∧ decodeSelector 0b00 = .tickNop

/-- Decode and encode agree: for every instruction the port can carry, with every operand, the decoder reads back the
instruction with its string cut to the bytes used, and leaves the words that follow (30_encoding.md section 2; the command
word is the spec's decision D10). -/
def Obligations.DecodeEncodeGivesTheCommandBack : Prop :=
  ∀ (i : Instr) (ws rest : List CmdWord), encode i = some ws → decode (ws ++ rest) = .got (trimmed i) rest

/-- Every command has one spelling: what the decoder accepts is the encoding of what it reads, followed by what it leaves
(30_encoding.md section 2, decision D10). -/
def Obligations.DecodedWordsAreTheEncoding : Prop :=
  ∀ (ws rest : List CmdWord) (i : Instr), decode ws = .got i rest →
    ∃ front, encode i = some front ∧ ws = front ++ rest

/-- R89 on the machine: when the producer is idle and moves next, a command word with a reserved `OP`, with `ZERO` not
0000, or `INIT` with `ARG` not 0x00, and a string command with a payload word whose bits 15:8 are not zero, is refused.
That these encodings are reserved is the spec's decision D12. That the command is decoded, and a bad payload word refused,
also while later payload words have not arrived, is the model's choice (log entry 10). -/
def Obligations.ReservedEncodingsAreRefused : Prop :=
  ∀ (s t : State) (w : CmdWord) (ws : List CmdWord),
    nextEvent s = (.producer, t) → t.prod = .idle → t.cmd = w :: ws →
    (5 ≤ (opField w).toNat ∨ zeroField w ≠ 0#4 ∨ (opField w = 0#4 ∧ argField w ≠ 0#8) ∨
      ((opField w = 3#4 ∨ opField w = 4#4) ∧
        ∃ k < (argField w).toNat, ∃ v, ws[k]? = some v ∧ payloadHigh v ≠ 0#8)) →
    ∃ why, step s = .refused (.reservedWord why)

/-- R80, bit by bit: start bit 0, the data bits, two stop bits 1, in 11 bits. -/
def Obligations.PlainFrameLayout : Prop :=
  ∀ c : Byte,
    (frame .none c).getLsbD 0 = false ∧
    (∀ k < 8, (frame .none c).getLsbD (k + 1) = c.getLsbD k) ∧
    (frame .none c).getLsbD 9 = true ∧ (frame .none c).getLsbD 10 = true ∧
    (frame .none c).getLsbD 11 = false ∧ frameWidth .none = 11

/-- R81, bit by bit: start bit 0, the data bits, the parity bit at position 9, two stop bits 1, in 12 bits. -/
def Obligations.ParityFrameLayout : Prop :=
  ∀ (c : Byte) (p : Parity) (seed : Bool), (p = .even ∧ seed = false ∨ p = .odd ∧ seed = true) →
    (frame p c).getLsbD 0 = false ∧
    (∀ k < 8, (frame p c).getLsbD (k + 1) = c.getLsbD k) ∧
    (frame p c).getLsbD 9 = parityBit seed c ∧
    (frame p c).getLsbD 10 = true ∧ (frame p c).getLsbD 11 = true ∧ frameWidth p = 12

/-- R82: the parity bit is the seed (1 for odd, 0 for even) xor the eight bits of `c`, and so the number of set bits among
data and parity bit is odd in odd mode and even in even mode. -/
def Obligations.ParityBitBalancesTheByte : Prop :=
  ∀ (c : Byte) (seed : Bool),
    parityBit seed c = (seed ^^ c.getLsbD 0 ^^ c.getLsbD 1 ^^ c.getLsbD 2 ^^ c.getLsbD 3 ^^ c.getLsbD 4 ^^
      c.getLsbD 5 ^^ c.getLsbD 6 ^^ c.getLsbD 7) ∧
    (((List.range 8).countP fun k => c.getLsbD k) + (parityBit seed c).toNat) % 2 = seed.toNat

/-- R83: the value of the frame word, its least and its most significant bit, and that shifting it `W_F` times, and no
fewer, gives zero; it is injective in the byte. -/
def Obligations.FrameShiftsToZeroAfterItsWidth : Prop :=
  ∀ (p : Parity) (c : Byte),
    (frame .none c).toNat = 1536 + 2 * c.toNat ∧
    (frame .even c).toNat = 3072 + 512 * (parityBit false c).toNat + 2 * c.toNat ∧
    (frame .odd c).toNat = 3072 + 512 * (parityBit true c).toNat + 2 * c.toNat ∧
    (frame p c).getLsbD 0 = false ∧ (frame p c).getLsbD (frameWidth p - 1) = true ∧
    (frame p c).toNat < 2 ^ frameWidth p ∧
    (∀ k < frameWidth p, frame p c >>> k ≠ 0#12) ∧ frame p c >>> frameWidth p = 0#12 ∧
    (∀ d : Byte, frame p c = frame p d → c = d)

/-- R96 with R84: the levels of a frame in wire order are start 0, the data bits, the parity level if there is one, and two
levels 1; and a receiver reads a list of levels as a valid frame of `c` exactly when it is that list. -/
def Obligations.ReceiverReadsExactlyTheFrames : Prop :=
  ∀ (p : Parity) (l : List Bool) (c : Byte),
    frameBits p c = false :: ((List.range 8).map fun k => c.getLsbD k) ++ parityLevels p c ++ [true, true] ∧
    (receiveFrame p l = some c ↔ l = frameBits p c)

/-! ## TxQueue -/

/-- R113: under `count < N`, `STORE(b)` writes the slot at `wr`, advances `wr` modulo `N`, increments `count`, and
changes nothing else. (`wr < N` is R25.) -/
def Obligations.StoreWritesTheSlotAtWr : Prop :=
  ∀ (b : Byte) (s : State), s.count < s.cfg.capacity → s.wr < s.cfg.capacity →
    exec (.store b) s = .next
      { s with buf := s.buf.write s.wr b, wr := (s.wr + 1) % s.cfg.capacity, count := s.count + 1 }

/-- R110: `TRY_ENQUEUE(b)` answers `BUSY` exactly when `count = N`, with no side effect; otherwise it stores as `STORE`
does and answers `OK`. The answer is the only other change (the model's list `results`, log entry 3). -/
def Obligations.TryEnqueueStoresOrAnswersBusy : Prop :=
  ∀ (b : Byte) (s : State),
    (s.count = s.cfg.capacity → exec (.tryEnqueue b) s = .next { s with results := s.results ++ [.busy] }) ∧
    (s.count ≠ s.cfg.capacity → s.wr < s.cfg.capacity → exec (.tryEnqueue b) s = .next
      { s with
        buf := s.buf.write s.wr b, wr := (s.wr + 1) % s.cfg.capacity, count := s.count + 1
        results := s.results ++ [.ok] })

/-- 40_txqueue.md, ENQUEUE: it polls while `count = N` shows, goes on to its store when a poll shows `count < N`, and the
store ends it. That each poll is a step of its own is the spec's decision D1. -/
def Obligations.EnqueuePollsThenStores : Prop :=
  ∀ (b : Byte) (s : State),
    (position (.enqueue b) s = some .polling → ¬ s.count < s.cfg.capacity →
      exec (.enqueue b) s = .next { s with prod := .running (.enqueue b) .polling }) ∧
    (position (.enqueue b) s = some .polling → s.count < s.cfg.capacity →
      exec (.enqueue b) s = .next { s with prod := .running (.enqueue b) (.storing 0) }) ∧
    (position (.enqueue b) s = some (.storing 0) → s.count < s.cfg.capacity → s.wr < s.cfg.capacity →
      exec (.enqueue b) s = .next
        { s with
          buf := s.buf.write s.wr b, wr := (s.wr + 1) % s.cfg.capacity, count := s.count + 1
          prod := .idle })

/-- 40_txqueue.md, DEQUEUE: with `count > 0` it hands over the byte of slot `rd`, advances `rd` modulo `N`, decrements
`count`, and leaves the slot as it is; with `count = 0` the model faults, which is the spec's decision D13. -/
def Obligations.DequeuePopsTheSlotAtRd : Prop :=
  ∀ s : State,
    (s.count = 0 → exec .dequeue s = .fault .dequeueEmpty) ∧
    (0 < s.count → s.rd < s.cfg.capacity → exec .dequeue s = .next
      { s with
        rd := (s.rd + 1) % s.cfg.capacity, count := s.count - 1
        results := s.results ++ [.byte (s.buf.slot s.rd)] })

/-- The queue contract (40_txqueue.md, laws; 20_memory.md, FIFO): in a state whose ring meets R25 and R44, a store appends
its byte to the queued bytes and a dequeue takes the first of them. -/
def Obligations.QueueIsFirstInFirstOut : Prop :=
  ∀ (s t : State), s.rd < s.cfg.capacity → s.count ≤ s.cfg.capacity →
    s.wr = (s.rd + s.count) % s.cfg.capacity →
    (∀ b, exec (.store b) s = .next t → t.queued = s.queued ++ [b]) ∧
    (exec .dequeue s = .next t → ∃ c, s.queued = c :: t.queued ∧ t.results = s.results ++ [.byte c])

/-- The memory frame of every operation: a slot reads after it what it read before, but for the slot at `wr` of an
operation that stores, which is one that increments `count` (R21: `buf` is written only by the store of an enqueue at
index `wr`). -/
def Obligations.MemoryChangesOnlyAtWr : Prop :=
  ∀ (i : Instr) (s t : State), exec i s = .next t →
    ∀ a, ¬ (a = s.wr ∧ t.count = s.count + 1) → t.buf.read a = s.buf.read a

/-- How the ring registers move (R22, R23, R24, R54): `INIT` clears them; any other operation leaves all three, or advances
`wr` and increments `count`, or advances `rd` and decrements `count`. The values `INIT` gives to the indices are the
spec's decision D4. -/
def Obligations.RingRegistersMoveTogether : Prop :=
  ∀ (i : Instr) (s t : State), exec i s = .next t →
    (i = .init ∧ t.rd = 0 ∧ t.wr = 0 ∧ t.count = 0) ∨
    (i ≠ .init ∧
      ((t.rd = s.rd ∧ t.wr = s.wr ∧ t.count = s.count) ∨
       (t.rd = s.rd ∧ t.wr = (s.wr + 1) % s.cfg.capacity ∧ t.count = s.count + 1) ∨
       (t.rd = (s.rd + 1) % s.cfg.capacity ∧ t.wr = s.wr ∧ s.count = t.count + 1)))

/-! ## FrameEngine -/

/-- R130 with R91: a deliverable `TICK` runs exactly the arm that the selector of the state at handler entry names, and
completes. That another arm performed by itself is refused is the model's reading (log entry 8). -/
def Obligations.TickRunsTheSelectedArm : Prop :=
  ∀ s : State, s.tickEnabled = true →
    (s.shift ≠ 0#12 → decodeSelector s.selector = .tickEmit ∧
      ∃ t, exec .tick s = .next t ∧ exec .tickEmit s = .next t ∧
        exec .tickLoad s = .refused .armNotSelected ∧ exec .tickNop s = .refused .armNotSelected) ∧
    (s.shift = 0#12 → s.count ≠ 0 → s.rd < s.cfg.capacity → decodeSelector s.selector = .tickLoad ∧
      ∃ t, exec .tick s = .next t ∧ exec .tickLoad s = .next t ∧
        exec .tickEmit s = .refused .armNotSelected ∧ exec .tickNop s = .refused .armNotSelected) ∧
    (s.shift = 0#12 → s.count = 0 → decodeSelector s.selector = .tickNop ∧
      ∃ t, exec .tick s = .next t ∧ exec .tickNop s = .next t ∧
        exec .tickEmit s = .refused .armNotSelected ∧ exec .tickLoad s = .refused .armNotSelected)

/-- R131: `TICK_EMIT` drives the bit at position 0, shifts right by one, disarms exactly when the shifted value is zero and
the queue is empty, and leaves the queue, `ie` and the producer as they are. -/
def Obligations.EmitTickDrivesTheNextBit : Prop :=
  ∀ s : State, s.tickEnabled = true → s.shift ≠ 0#12 →
    ∃ t, exec .tickEmit s = .next t ∧
      t.tx = s.shift.getLsbD 0 ∧ t.shift = s.shift >>> 1 ∧
      t.armed = (if s.shift >>> 1 = 0#12 ∧ s.count = 0 then false else s.armed) ∧
      t.buf = s.buf ∧ t.rd = s.rd ∧ t.wr = s.wr ∧ t.count = s.count ∧ t.ie = s.ie ∧ t.prod = s.prod ∧
      t.results = s.results ∧ t.rsp = s.rsp ∧ t.cmd = s.cmd ∧ t.cfg = s.cfg

/-- R132: `TICK_LOAD` dequeues the byte at `rd` and loads its frame; the pin, `armed`, `wr`, the storage, `ie` and the
producer keep their values. -/
def Obligations.LoadTickLoadsTheOldestByte : Prop :=
  ∀ s : State, s.tickEnabled = true → s.shift = 0#12 → s.count ≠ 0 → s.rd < s.cfg.capacity →
    ∃ t, exec .tickLoad s = .next t ∧
      t.shift = frame s.cfg.parity (s.buf.slot s.rd) ∧
      t.rd = (s.rd + 1) % s.cfg.capacity ∧ t.count = s.count - 1 ∧
      t.tx = s.tx ∧ t.armed = s.armed ∧ t.wr = s.wr ∧ t.buf = s.buf ∧ t.ie = s.ie ∧ t.prod = s.prod ∧
      t.results = s.results ∧ t.rsp = s.rsp ∧ t.cmd = s.cmd ∧ t.cfg = s.cfg

/-- 41_frameengine.md, TICK_NOP: nothing changes but the pending bit that entry clears (decision D22) and the new sample
of the trace (decision D28); that `armed` is not written is the spec's decision D31. -/
def Obligations.IdleTickChangesNothing : Prop :=
  ∀ s : State, s.tickEnabled = true → s.shift = 0#12 → s.count = 0 →
    exec .tickNop s = .next { s with tickPending := false, trace := s.trace ++ [s.tx] }

/-- Entry and return of the handler, for every form of the TICK (60_exceptions.md section 4, decision D22; the sample is
decision D28): it was deliverable, `tick_pending` is cleared, one sample of the pin is added, and `ie`, the producer and
everything outside the engine are as they were. -/
def Obligations.TickEntryAndReturn : Prop :=
  ∀ (i : Instr) (s t : State), i ∈ [Instr.tick, .tickEmit, .tickLoad, .tickNop] → exec i s = .next t →
    s.tickEnabled = true ∧ t.tickPending = false ∧ t.trace = s.trace ++ [t.tx] ∧
    t.ie = s.ie ∧ t.prod = s.prod ∧ t.buf = s.buf ∧ t.wr = s.wr ∧
    t.results = s.results ∧ t.rsp = s.rsp ∧ t.cmd = s.cmd ∧ t.sched = s.sched ∧ t.drawn = s.drawn ∧ t.cfg = s.cfg

/-- R196 on the machine: when the handler may run next, a TICK occurs exactly when `armed = 1`, `ie = 1` and
`tick_pending = 1`; otherwise the handler is not invoked and nothing changes but that the event is used
up. That the third conjunct is kept, which decision D24 lets an untimed model drop, and that the handler's turn does
nothing where no TICK is deliverable, are log entry 8; the events are log entry 2. -/
def Obligations.TickOccursExactlyWhenDeliverable : Prop :=
  ∀ s t : State, s.Inv → nextEvent s = (.handler, t) →
    (s.armed = true ∧ s.ie = true ∧ s.tickPending = true → ∃ u, exec .tick t = .next u ∧ step s = .next u) ∧
    (¬ (s.armed = true ∧ s.ie = true ∧ s.tickPending = true) → step s = .next t)

/-- The state diagram of the FrameEngine (41_frameengine.md section 2; derived there): a load leaves `W_F` bits to emit;
each emit tick leaves one bit fewer; it disarms exactly when the bit was the last and the queue is empty, and the last bit
leaves the pin at 1. -/
def Obligations.BitsLeftCountDown : Prop :=
  ∀ s t : State, s.Inv →
    (exec .tickLoad s = .next t → bitsLeft t.shift = frameWidth s.cfg.parity) ∧
    (exec .tickEmit s = .next t →
      1 ≤ bitsLeft s.shift ∧ bitsLeft s.shift ≤ frameWidth s.cfg.parity ∧
      bitsLeft s.shift = bitsLeft t.shift + 1 ∧
      (t.armed = false ↔ bitsLeft s.shift = 1 ∧ s.count = 0) ∧
      (bitsLeft s.shift = 1 → t.tx = true))

/-- Ticks per frame (41_frameengine.md section 2; derived there): from idle with a non-empty queue, `1 + W_F` ticks send
one byte. The pin shows one more mark and then the levels of the frame, and the engine is idle again; it is disarmed
exactly when that byte was the last. The schedule is one of a period and a handler's turn for each tick (log entry 2). -/
def Obligations.OneByteTakesWidthPlusOneTicks : Prop :=
  ∀ (s : State) (rest : List Event), s.Inv → s.armed = true → s.ie = true → s.shift = 0#12 → s.count ≠ 0 →
    s.sched = tickEvents (frameWidth s.cfg.parity + 1) ++ rest →
    Host.Core.run core (2 * (frameWidth s.cfg.parity + 1)) s = .next
      { s with
        rd := (s.rd + 1) % s.cfg.capacity, count := s.count - 1
        trace := s.trace ++ true :: frameBits s.cfg.parity (s.buf.slot s.rd)
        armed := decide (s.count ≠ 1), tickPending := false, sched := rest }

/-- Back-to-back frames and the end of transmission (41_frameengine.md section 2; derived there): `m` queued bytes are sent
in order by exactly `m * (W_F + 1)` ticks, one mark before each frame, and the last of these ticks disarms the source. The
schedule is one of a period and a handler's turn for each tick (log entry 2). -/
def Obligations.QueueDrainsAndDisarms : Prop :=
  ∀ (s : State) (rest : List Event), s.Inv → s.armed = true → s.ie = true → s.shift = 0#12 → s.count ≠ 0 →
    s.sched = tickEvents (s.count * (frameWidth s.cfg.parity + 1)) ++ rest →
    Host.Core.run core (2 * (s.count * (frameWidth s.cfg.parity + 1))) s = .next
      { s with
        rd := (s.rd + s.count) % s.cfg.capacity, count := 0
        trace := s.trace ++ s.queued.flatMap fun c => true :: frameBits s.cfg.parity c
        armed := false, tickPending := false, sched := rest }

/-- An engine that is armed, idle and empty ticks to no effect (70_reset_and_hazards.md section 3; the late arm and the
zero-length string of 42_api.md): every tick adds one sample of the resting pin, and the engine stays armed
(decision D31). The schedule is one of a period and a handler's turn for each tick (log entry 2). -/
def Obligations.ArmedIdleEngineTicksToNoEffect : Prop :=
  ∀ (n : Nat) (s : State) (rest : List Event), s.booted = true → s.armed = true → s.ie = true → s.shift = 0#12 → s.count = 0 →
    s.sched = tickEvents (n + 1) ++ rest →
    Host.Core.run core (2 * (n + 1)) s = .next
      { s with trace := s.trace ++ List.replicate (n + 1) s.tx, tickPending := false, sched := rest }

/-- A disarmed engine is inert (60_exceptions.md section 6): no sequence of events without a producer step changes the
engine but for `tick_pending`, which the tick source sets, and `ie`, which the environment drives. The events are log
entries 2 and 19. -/
def Obligations.DisarmedEngineIsInert : Prop :=
  ∀ (es : List Event) (s : State) (rest : List Event), Event.producer ∉ es → s.armed = false → s.sched = es ++ rest →
    ∃ (pending ie : Bool) (ws : List CmdWord),
      Host.Core.run core es.length s = .next
        { s with tickPending := pending, ie := ie, cmd := s.cmd ++ ws, sched := rest }

/-! ## Arming and INIT -/

/-- 42_api.md section 2, ARM: `armed <- 1` and nothing else. -/
def Obligations.ArmSetsArmed : Prop :=
  ∀ s : State, exec .arm s = .next { s with armed := true }

/-- 42_api.md section 2, ARM_CLR: `armed <- 1 ; tick_pending <- 0` and nothing else. That the flag is cleared is the
spec's decision D9. -/
def Obligations.ArmClrSetsArmedAndDropsThePendingTick : Prop :=
  ∀ s : State, exec .armClr s = .next { s with armed := true, tickPending := false }

/-- 42_api.md section 1, INIT: the queue empty, the register zero, disarmed, the pin at mark; `buf`, `tick_pending` and
`ie` are not written. The indices are decision D4 and the pin decision D6; with legal parameters the result is a launch
state. -/
def Obligations.InitGivesALaunchState : Prop :=
  ∀ s : State, s.prod = .idle →
    exec .init s = .next
      { s with
        rd := 0, wr := 0, count := 0, shift := 0#12, armed := false, tx := true, prod := .idle, booted := true
        results := s.results ++ [.done], rsp := s.rsp ++ [false] } ∧
    (s.cfg.wf → s.buf.wf → (∀ p ∈ s.buf, p.1 < s.cfg.capacity) → ∀ t, exec .init s = .next t → t.isLaunch)

/-! ## Commands -/

/-- 42_api.md section 3, TRY_PUT, step by step (the two steps are decisions D1 and D20, the arming is D19, the
issue is one step with the first, log entry 9): on a full
queue `BUSY` and nothing else; otherwise the store, then `ARM`, which ends it with `OK`. -/
def Obligations.TryPutStepByStep : Prop :=
  ∀ (b : Byte) (s : State),
    (position (.tryPut b) s = some .start → s.count = s.cfg.capacity →
      exec (.tryPut b) s = .next { s with prod := .idle, results := s.results ++ [.busy], rsp := s.rsp ++ [true] }) ∧
    (position (.tryPut b) s = some .start → s.count ≠ s.cfg.capacity → s.wr < s.cfg.capacity →
      exec (.tryPut b) s = .next
        { s with
          buf := s.buf.write s.wr b, wr := (s.wr + 1) % s.cfg.capacity, count := s.count + 1
          prod := .running (.tryPut b) .arming }) ∧
    (position (.tryPut b) s = some .arming →
      exec (.tryPut b) s = .next { s with armed := true, prod := .idle, results := s.results ++ [.ok], rsp := s.rsp ++ [false] })

/-- 42_api.md section 3, PUT, step by step (the steps are decisions D1 and D20, the clear is D9, the
issue is one step with the first, log entry 9): it polls while no room
shows, then stores, then `ARM_CLR` ends it. -/
def Obligations.PutStepByStep : Prop :=
  ∀ (b : Byte) (s : State),
    (position (.put b) s = some .polling → ¬ s.count < s.cfg.capacity →
      exec (.put b) s = .next { s with prod := .running (.put b) .polling }) ∧
    (position (.put b) s = some .polling → s.count < s.cfg.capacity →
      exec (.put b) s = .next { s with prod := .running (.put b) (.storing 0) }) ∧
    (position (.put b) s = some (.storing 0) → s.count < s.cfg.capacity → s.wr < s.cfg.capacity →
      exec (.put b) s = .next
        { s with
          buf := s.buf.write s.wr b, wr := (s.wr + 1) % s.cfg.capacity, count := s.count + 1
          prod := .running (.put b) .arming }) ∧
    (position (.put b) s = some .arming →
      exec (.put b) s = .next
        { s with armed := true, tickPending := false, prod := .idle, results := s.results ++ [.done], rsp := s.rsp ++ [false] })

/-- 42_api.md section 4, TRY_PUT_STRING, step by step (the steps are decisions D1, D18 and D20, the
issue is one step with the first, log entry 9): the free-space test ends
it with `BUSY` and no other change, or lets it go on to its first store, or to its arming step when there is nothing to
store; each store takes the next byte; `ARM` ends it with `OK`. -/
def Obligations.TryPutStringStepByStep : Prop :=
  ∀ (bs : List Byte) (len : Nat) (s : State),
    (position (.tryPutString bs len) s = some .checking → s.cfg.capacity - s.count < len →
      exec (.tryPutString bs len) s = .next { s with prod := .idle, results := s.results ++ [.busy], rsp := s.rsp ++ [true] }) ∧
    (position (.tryPutString bs len) s = some .checking → len ≤ s.cfg.capacity - s.count →
      exec (.tryPutString bs len) s = .next
        { s with prod := .running (.tryPutString bs len) (if 0 < len then .storing 0 else .arming) }) ∧
    (∀ k b, position (.tryPutString bs len) s = some (.storing k) → bs[k]? = some b →
      s.count < s.cfg.capacity → s.wr < s.cfg.capacity →
      exec (.tryPutString bs len) s = .next
        { s with
          buf := s.buf.write s.wr b, wr := (s.wr + 1) % s.cfg.capacity, count := s.count + 1
          prod := .running (.tryPutString bs len) (if k + 1 < len then .storing (k + 1) else .arming) }) ∧
    (position (.tryPutString bs len) s = some .arming →
      exec (.tryPutString bs len) s = .next { s with armed := true, prod := .idle, results := s.results ++ [.ok], rsp := s.rsp ++ [false] })

/-- 42_api.md section 4, PUT_STRING, step by step (the steps are decisions D1, D18 and D20, the clear is D9, the
issue is one step with the first, log entry 9): it polls
until `len` slots are free, then stores byte after byte, then `ARM_CLR` ends it. -/
def Obligations.PutStringStepByStep : Prop :=
  ∀ (bs : List Byte) (len : Nat) (s : State),
    (position (.putString bs len) s = some .polling → s.cfg.capacity - s.count < len →
      exec (.putString bs len) s = .next { s with prod := .running (.putString bs len) .polling }) ∧
    (position (.putString bs len) s = some .polling → len ≤ s.cfg.capacity - s.count →
      exec (.putString bs len) s = .next
        { s with prod := .running (.putString bs len) (if 0 < len then .storing 0 else .arming) }) ∧
    (∀ k b, position (.putString bs len) s = some (.storing k) → bs[k]? = some b →
      s.count < s.cfg.capacity → s.wr < s.cfg.capacity →
      exec (.putString bs len) s = .next
        { s with
          buf := s.buf.write s.wr b, wr := (s.wr + 1) % s.cfg.capacity, count := s.count + 1
          prod := .running (.putString bs len) (if k + 1 < len then .storing (k + 1) else .arming) }) ∧
    (position (.putString bs len) s = some .arming →
      exec (.putString bs len) s = .next
        { s with armed := true, tickPending := false, prod := .idle, results := s.results ++ [.done], rsp := s.rsp ++ [false] })

/-- The single-byte commands as a whole, with no tick between their steps and room in the queue: two steps of `TRY_PUT` and
three of `PUT` (42_api.md section 3 and 95_test_vectors.md P3; the steps are decisions D1 and D20). -/
def Obligations.SingleByteCommandsComplete : Prop :=
  ∀ (b : Byte) (s : State), s.prod = .idle → s.count < s.cfg.capacity → s.wr < s.cfg.capacity →
    execTimes 2 (.tryPut b) s = .next
      { s with
        buf := s.buf.write s.wr b, wr := (s.wr + 1) % s.cfg.capacity, count := s.count + 1
        armed := true, results := s.results ++ [.ok], rsp := s.rsp ++ [false] } ∧
    execTimes 3 (.put b) s = .next
      { s with
        buf := s.buf.write s.wr b, wr := (s.wr + 1) % s.cfg.capacity, count := s.count + 1
        armed := true, tickPending := false, results := s.results ++ [.done], rsp := s.rsp ++ [false] }

/-- The string commands as a whole, with no tick between their steps and room for the string: after `len + 2` steps the
queue holds what it held and then the string in ascending index (42_api.md section 4; the order is decision D17, the steps
are decisions D1, D18 and D20). -/
def Obligations.StringCommandsQueueTheWholeString : Prop :=
  ∀ (bs : List Byte) (len : Nat) (s : State), s.Inv → s.prod = .idle → len ≤ bs.length →
    s.count + len ≤ s.cfg.capacity →
    (∃ t, execTimes (len + 2) (.tryPutString bs len) s = .next t ∧
      t.queued = s.queued ++ bs.take len ∧ t.prod = .idle ∧ t.results = s.results ++ [.ok] ∧ t.rsp = s.rsp ++ [false] ∧
      t.armed = true ∧ t.tickPending = s.tickPending ∧ t.count = s.count + len ∧
      t.rd = s.rd ∧ t.shift = s.shift ∧ t.tx = s.tx ∧ t.ie = s.ie) ∧
    (∃ t, execTimes (len + 2) (.putString bs len) s = .next t ∧
      t.queued = s.queued ++ bs.take len ∧ t.prod = .idle ∧ t.results = s.results ++ [.done] ∧ t.rsp = s.rsp ++ [false] ∧
      t.armed = true ∧ t.tickPending = false ∧ t.count = s.count + len ∧
      t.rd = s.rd ∧ t.shift = s.shift ∧ t.tx = s.tx ∧ t.ie = s.ie)

/-- Zero-length strings (42_api.md section 5, decision D16): whatever the queue holds up to its capacity, the command
stores nothing, arms, and ends with `OK` or done. -/
def Obligations.ZeroLengthStringsOnlyArm : Prop :=
  ∀ (bs : List Byte) (s : State), s.prod = .idle →
    execTimes 2 (.tryPutString bs 0) s = .next { s with armed := true, results := s.results ++ [.ok], rsp := s.rsp ++ [false] } ∧
    execTimes 2 (.putString bs 0) s = .next
      { s with armed := true, tickPending := false, results := s.results ++ [.done], rsp := s.rsp ++ [false] }

/-- Blocking commands only delay (70_reset_and_hazards.md section 3; derived there): while no tick makes room, `PUT` on a
full queue and `PUT_STRING` with fewer than `len` free slots, so always one with `len > N`, poll for ever with no other
change, and `TRY_PUT_STRING` answers `BUSY`. -/
def Obligations.BlockingCommandsSpinWithoutRoom : Prop :=
  ∀ (n : Nat) (bs : List Byte) (len : Nat) (b : Byte) (s : State), s.prod = .idle →
    (s.count = s.cfg.capacity →
      execTimes (n + 1) (.put b) s = .next { s with prod := .running (.put b) .polling }) ∧
    (s.cfg.capacity - s.count < len →
      execTimes (n + 1) (.putString bs len) s = .next { s with prod := .running (.putString bs len) .polling } ∧
      exec (.tryPutString bs len) s = .next { s with results := s.results ++ [.busy], rsp := s.rsp ++ [true] })

/-- R174: the step of `TRY_PUT` or `TRY_PUT_STRING` that answers `BUSY` changes nothing but the producer's position, which
goes back to idle. The answer itself is in the model's lists `results` and `rsp` (log entry 3). -/
def Obligations.BusyLeavesNoTrace : Prop :=
  ∀ (i : Instr) (s t : State),
    ((∃ b, i = .tryPut b) ∨ ∃ bs len, i = .tryPutString bs len) →
    exec i s = .next t → t.results = s.results ++ [.busy] →
    t = { s with prod := .idle, results := s.results ++ [.busy], rsp := s.rsp ++ [true] }

/-- The signal `rsp` (30_encoding.md section 2, the result encoding, decision D11; 60_exceptions.md section 1): the codes
are OK 0, BUSY 1 and done 0; an operation leaves `rsp` as it is, or it is a command that ends, with one of the results the
operation table gives it, and `rsp` gets that result's code. A command signals whenever its step leaves the producer idle.
The lists `results` and `rsp` are the model's records (log entry 3). -/
def Obligations.RspSignalsTheEndOfACommand : Prop :=
  Result.ok.rspBit = some false ∧ Result.busy.rspBit = some true ∧ Result.done.rspBit = some false ∧
  ∀ (i : Instr) (s t : State), exec i s = .next t →
    (t.rsp = s.rsp ∨ ∃ r ∈ commandResults i,
      t.prod = .idle ∧ t.results = s.results ++ [r] ∧ t.rsp = s.rsp ++ [decide (r = .busy)]) ∧
    (commandResults i ≠ [] → t.prod = .idle → t.rsp ≠ s.rsp)

/-- One command at a time (10_state.md section 6, decision D1; 42_api.md section 5): while a command is in progress, any
other command is refused, and so is `INIT`. Refusing it is the spec's decision D27 (log entry 13). -/
def Obligations.NoSecondCommandWhileOneRuns : Prop :=
  ∀ (i j : Instr) (pos : Pos) (s : State), s.prod = .running j pos →
    (i = .init ∨ (i ≠ j ∧
      ((∃ b, i = .tryPut b ∨ i = .put b ∨ i = .enqueue b) ∨
       ∃ bs len, i = .tryPutString bs len ∨ i = .putString bs len))) →
    exec i s = .refused .commandInProgress

/-! ## The whole machine -/

/-- The reset state is a launch state (10_state.md section 9), with the choices of log entries 1, 4, 6 and 7 for what the
spec leaves open. -/
def Obligations.ResetIsALaunchState : Prop :=
  State.reset.isLaunch ∧ State.reset = State.launch { capacity := 4, parity := .none, baud := 9600 } [] false false

/-- Every launch state (10_state.md section 9, decisions D4 and D6) meets the invariant of the machine, and so does the
reset state. -/
def Obligations.LaunchStatesMeetTheInvariant : Prop :=
  (∀ s : State, s.isLaunch → s.Inv) ∧ State.reset.Inv

/-- The invariant of the machine is kept by every step from every state that meets it: the queue bounds and the index
relation, the promise of free slots to the command in progress, the stored slots, the shift register as a shifted frame,
the pin at mark when idle, and disarmed implies idle and, outside the window between store and arm, empty (10_state.md
sections 2 to 6, 42_api.md section 5). -/
def Obligations.StepKeepsTheInvariant : Prop :=
  ∀ s t : State, s.Inv → step s = .next t → t.Inv

/-- R25: in every state that a run of any length from a launch state reaches, `0 <= count <= N`, `0 <= rd < N` and
`0 <= wr < N`. -/
def Obligations.EveryRunKeepsTheQueueBounds : Prop :=
  ∀ (n : Nat) (s t : State), s.isLaunch → Host.Core.run core n s = .next t →
    t.count ≤ t.cfg.capacity ∧ t.rd < t.cfg.capacity ∧ t.wr < t.cfg.capacity ∧ t.cfg = s.cfg

/-- From every state that meets the invariant a step goes on, or is refused because the idle producer finds a reserved
encoding on the port; the machine never faults (60_exceptions.md section 1; 30_encoding.md section 3, decision D12). -/
def Obligations.StepStopsOnlyAtReservedEncodings : Prop :=
  ∀ s : State, s.Inv →
    (∃ t, step s = .next t) ∨
    (∃ t why, nextEvent s = (.producer, t) ∧ t.prod = .idle ∧ decode t.cmd = .reject why ∧
      step s = .refused (.reservedWord why))

/-- Wire-level correctness, one step (41_frameengine.md section 2 and 20_memory.md section 4; derived there): if what was
emitted since the last `INIT`, followed by what is still ahead on the line, is the frames of the bytes accepted since then
in order, then it is so after the step. The ledger starts again at a step that issues `INIT`. -/
def Obligations.StepKeepsTheLedgerBalanced : Prop :=
  ∀ (l : Ledger) (s t : State), s.Inv → l.balances s → step s = .next t → (l.after s t).balances t

/-- Wire-level correctness, any run (41_frameengine.md section 2; derived there): from every launch state, after any number
of steps in any interleaving, what was emitted since the last `INIT` is the beginning of the frames of the bytes accepted
since then, in order, and it is all of them when the engine is idle and the queue empty. The ledger starts again at every
`INIT`, which discards what is queued. -/
def Obligations.EveryRunSendsTheAcceptedBytesInOrder : Prop :=
  ∀ (n : Nat) (s t : State) (l : Ledger), s.isLaunch → runLedger n { accepted := [], emitted := [] } s = some (l, t) →
    l.emitted <+: wireOf s.cfg.parity l.accepted ∧
    (t.shift = 0#12 → t.count = 0 → l.emitted = wireOf s.cfg.parity l.accepted)

/-- A step of the producer is `exec`: of the command in progress, or of the command that the port's words decode to, with
all its words taken off, so that issuing a command and its first step are one step (log entry 9); with an incomplete
command on the port it waits (log entry 10). An operation in progress that mainline may not perform is refused (10_state.md
section 6; 60_exceptions.md section 5, decision D27, log entry 13). -/
def Obligations.StepRunsTheProducersOperation : Prop :=
  ∀ s t : State, nextEvent s = (.producer, t) → t.booted = true →
    (∀ i pos, t.prod = .running i pos →
      (hasPositions i = true → step s = exec i t) ∧
      (hasPositions i = false → step s = .refused .outsideContext)) ∧
    (∀ i rest, t.prod = .idle → decode t.cmd = .got i rest → step s = exec i { t with cmd := rest }) ∧
    (t.prod = .idle → decode t.cmd = .incomplete → step s = .next t)

/-- Before `INIT` only `INIT` has a meaning (70_reset_and_hazards.md section 2, derived there; that the rest is refused is
the treatment of U9): the producer's step performs an `INIT` from the port, and refuses any other command; a deliverable
TICK is refused. -/
def Obligations.OnlyInitRunsBeforeInit : Prop :=
  ∀ s t : State, t.booted = false →
    (nextEvent s = (.producer, t) → t.prod = .idle → ∀ i rest, decode t.cmd = .got i rest →
      (i = .init → ∃ u, step s = .next u ∧ exec .init { t with cmd := rest } = .next u ∧ u.booted = true) ∧
      (i ≠ .init → step s = .refused .beforeInit)) ∧
    (nextEvent s = (.producer, t) → ∀ i pos, t.prod = .running i pos → step s = .refused .beforeInit) ∧
    (nextEvent s = (.handler, t) → t.tickEnabled = true → step s = .refused .beforeInit)

/-- The environment's events: a period boundary sets `tick_pending`, armed or not (decision D8), the environment drives
`ie` (decision D7), words arrive at the end of the port (log entries 10 and 19). That each is a step of its own, changing
its own field alone, is log entry 19; that the next event is the first one laid down is log entry 2. -/
def Obligations.StepRunsTheEnvironment : Prop :=
  ∀ (s : State) (e : Event) (es : List Event), s.sched = e :: es →
    nextEvent s = (e, { s with sched := es }) ∧
    (e = .period → step s = .next { s with tickPending := true, sched := es }) ∧
    (∀ v, e = .setIe v → step s = .next { s with ie := v, sched := es }) ∧
    (∀ ws, e = .deliver ws → step s = .next { s with cmd := s.cmd ++ ws, sched := es })

/-- An instruction of the opcode table laid before the next step is what that step runs: a command word with its payload,
from every state; a selector of a TICK, as an arm of the handler (log entry 11). -/
def Obligations.LaidWordIsRunNext : Prop :=
  ∀ (s : State) (w : Nat) (i : Instr),
    (decodeTableWord 16 w = some i → step (s.withFetchWord 16 w) = exec i { s with prod := .idle, booted := true }) ∧
    (decodeTableWord 8 w = some i → s.rd < s.cfg.capacity →
      ∃ t, step (s.withFetchWord 8 w) = .next t ∧ exec i { s.withFetchWord 8 w with sched := s.sched } = .next t)

/-- The build parameters do not change at run time (00_scope.md section 4). -/
def Obligations.ParametersNeverChange : Prop :=
  ∀ s t : State, step s = .next t → t.cfg = s.cfg

/-- No operation changes `ie`: a critical section writes back the saved value (70_reset_and_hazards.md section 3), and no
other operation writes it (10_state.md section 4, decision D7). That a step changes it only as an event of the environment
is decision D7 and log entry 19. -/
def Obligations.OperationsRestoreTheInterruptEnable : Prop :=
  (∀ (i : Instr) (s t : State), exec i s = .next t → t.ie = s.ie) ∧
  (∀ s t : State, step s = .next t → t.ie = s.ie ∨ (nextEvent s).1 = .setIe t.ie)

/-- R193: `armed` is set by `ARM` and `ARM_CLR`, by themselves or as the arming step of a command, and cleared by
`TICK_EMIT` when the frame it ends and the queue are both empty, and by `INIT`; nothing else changes it. -/
def Obligations.ArmedIsSetByArmingAndClearedAtTheEnd : Prop :=
  ∀ (i : Instr) (s t : State), exec i s = .next t →
    (s.armed = false → t.armed = true → i = .arm ∨ i = .armClr ∨ s.prod = .running i .arming) ∧
    (s.armed = true → t.armed = false →
      i = .init ∨ ((i = .tick ∨ i = .tickEmit) ∧ s.shift ≠ 0#12 ∧ t.shift = 0#12 ∧ s.count = 0)) ∧
    (i = .arm ∨ i = .armClr → t.armed = true) ∧ (i = .init → t.armed = false) ∧
    (i = .tickEmit → s.shift >>> 1 = 0#12 → s.count = 0 → t.armed = false)

/-- Who writes the pin (10_state.md section 5; that `INIT` writes it is decision D6): only an emit tick, which drives the
bit at position 0, and `INIT`, which drives 1. -/
def Obligations.PinIsWrittenByEmitTicksAndInit : Prop :=
  ∀ (i : Instr) (s t : State), exec i s = .next t →
    t.tx = s.tx ∨ (i = .init ∧ t.tx = true) ∨
    ((i = .tick ∨ i = .tickEmit) ∧ s.shift ≠ 0#12 ∧ t.tx = s.shift.getLsbD 0)

/-- Who writes the frame in flight (10_state.md sections 3 and 8): an operation other than `INIT` and the TICK changes
neither `shift` nor the pin nor the trace; `shift` changes only by `INIT`, by the shift of an emit tick, or by the load of
the oldest byte's frame when it is zero. -/
def Obligations.FrameIsPrivateToTheHandler : Prop :=
  ∀ (i : Instr) (s t : State), exec i s = .next t →
    (i ∉ [Instr.init, .tick, .tickEmit, .tickLoad, .tickNop] → t.shift = s.shift ∧ t.tx = s.tx ∧ t.trace = s.trace) ∧
    (t.shift = s.shift ∨ (i = .init ∧ t.shift = 0#12) ∨
      ((i = .tick ∨ i = .tickEmit) ∧ s.shift ≠ 0#12 ∧ t.shift = s.shift >>> 1) ∨
      ((i = .tick ∨ i = .tickLoad) ∧ s.shift = 0#12 ∧ s.count ≠ 0 ∧
        t.shift = frame s.cfg.parity (s.buf.slot s.rd)))

/-- The producer never reads the frame in flight, the pin, the read index or the trace (10_state.md section 8): its
operations commute with any change of them. -/
def Obligations.ProducerCannotSeeTheHandlersState : Prop :=
  ∀ (i : Instr) (s : State) (v : ShiftReg) (level : Bool) (r : Nat) (samples : List Bool),
    i ∉ [Instr.init, .tick, .tickEmit, .tickLoad, .tickNop, .dequeue] →
    exec i { s with shift := v, tx := level, rd := r, trace := samples } =
      andThen (exec i s) fun t => .next { t with shift := v, tx := level, rd := r, trace := samples }

/-- The handler never reads the write index, the producer's position, the port, the results or `rsp` (10_state.md section
8): a TICK commutes with any change of them. -/
def Obligations.HandlerCannotSeeTheProducersState : Prop :=
  ∀ (i : Instr) (s : State) (w : Nat) (p : Producer) (ws : List CmdWord) (rs : List Result)
    (qs : List Bool), i ∈ [Instr.tick, .tickEmit, .tickLoad, .tickNop] →
    exec i { s with wr := w, prod := p, cmd := ws, results := rs, rsp := qs } =
      andThen (exec i s) fun t => .next { t with wr := w, prod := p, cmd := ws, results := rs, rsp := qs }

/-- Monotonicity under a single producer (20_memory.md section 4; derived there): a step that is not the producer's never
raises `count`, so free slots shown by a poll stay free until the producer stores, and it leaves the producer's position
alone. -/
def Obligations.FreeSlotsStayFreeForTheProducer : Prop :=
  ∀ s t : State, step s = .next t → (nextEvent s).1 ≠ .producer →
    t.count ≤ s.count ∧ t.wr = s.wr ∧ t.buf = s.buf ∧ t.prod = s.prod

end
end

