-- ==== Sys2Proof/Laws/Decode.lean ====
section
/-! SUPPORT. The fields of a word made of fields, and the payload of a string read back. -/

namespace Sys2Proof

@[simp] theorem opField_commandWord (op : BitVec 4) (arg : Byte) : opField (commandWord op arg) = op := by
  apply BitVec.eq_of_getLsbD_eq
  intro i hi
  have h1 : 12 + i < 16 := by omega
  have h2 : arg.getLsbD (12 + i) = false := BitVec.getLsbD_of_ge _ _ (by omega)
  simp [opField, commandWord, hi, h1, h2]

@[simp] theorem zeroField_commandWord (op : BitVec 4) (arg : Byte) : zeroField (commandWord op arg) = 0#4 := by
  apply BitVec.eq_of_getLsbD_eq
  intro i hi
  simp [zeroField, commandWord, hi]
  omega

@[simp] theorem argField_commandWord (op : BitVec 4) (arg : Byte) : argField (commandWord op arg) = arg := by
  apply BitVec.eq_of_getLsbD_eq
  intro i hi
  have h1 : i < 16 := by omega
  have h2 : i < 12 := by omega
  simp [argField, commandWord, hi, h1, h2]

@[simp] theorem argField_payloadWord (b : Byte) : argField (payloadWord b) = b := by
  apply BitVec.eq_of_getLsbD_eq
  intro i hi
  simp [argField, payloadWord, hi]
  omega

@[simp] theorem payloadHigh_payloadWord (b : Byte) : payloadHigh (payloadWord b) = 0#8 := by
  apply BitVec.eq_of_getLsbD_eq
  intro i hi
  simp [payloadHigh, payloadWord, hi]

/-- The payload words of some bytes read back as those bytes (R87). -/
theorem readPayload_payloadWords (bs : List Byte) (rest : List CmdWord) :
    readPayload bs.length (bs.map payloadWord ++ rest) = .got bs rest := by
  induction bs with
  | nil => rfl
  | cons b bs ih => simp [readPayload, ih]

/-- What a payload read gives back, when it gives bytes: as many as asked for, and they are the words read. -/
theorem readPayload_got {n : Nat} {ws rest : List CmdWord} {bs : List Byte} (h : readPayload n ws = .got bs rest) :
    bs.length = n ∧ ∃ front, ws = front ++ rest ∧ front.length = n ∧
      (∀ w ∈ front, payloadHigh w = 0#8) ∧ front.map argField = bs := by
  induction n generalizing ws bs with
  | zero =>
    simp only [readPayload, Fetched.got.injEq] at h
    obtain ⟨rfl, rfl⟩ := h
    exact ⟨rfl, [], by simp⟩
  | succ n ih =>
    cases ws with
    | nil => simp [readPayload] at h
    | cons w ws =>
      simp only [readPayload] at h
      split at h
      · next hw =>
        split at h <;> cases h
        next bs' hr =>
        obtain ⟨hl, front, rfl, hf, hz, rfl⟩ := ih hr
        refine ⟨by simpa using hl, w :: front, by simp, by simpa using hf, ?_, by simp⟩
        simpa [hw] using hz
      · cases h

end Sys2Proof
end

