-- ==== Sys2Proof/Laws/State.lean ====
section
/-! SUPPORT. One lemma for each field and each named update of the state, true by rfl. -/

namespace Sys2Proof.Machine

@[simp] theorem State.report_buf (r : Result) (s : State) : (s.report r).buf = s.buf := rfl
@[simp] theorem State.report_rd (r : Result) (s : State) : (s.report r).rd = s.rd := rfl
@[simp] theorem State.report_wr (r : Result) (s : State) : (s.report r).wr = s.wr := rfl
@[simp] theorem State.report_count (r : Result) (s : State) : (s.report r).count = s.count := rfl
@[simp] theorem State.report_shift (r : Result) (s : State) : (s.report r).shift = s.shift := rfl
@[simp] theorem State.report_armed (r : Result) (s : State) : (s.report r).armed = s.armed := rfl
@[simp] theorem State.report_tickPending (r : Result) (s : State) : (s.report r).tickPending = s.tickPending := rfl
@[simp] theorem State.report_ie (r : Result) (s : State) : (s.report r).ie = s.ie := rfl
@[simp] theorem State.report_tx (r : Result) (s : State) : (s.report r).tx = s.tx := rfl
@[simp] theorem State.report_prod (r : Result) (s : State) : (s.report r).prod = s.prod := rfl
@[simp] theorem State.report_cfg (r : Result) (s : State) : (s.report r).cfg = s.cfg := rfl
@[simp] theorem State.report_cmd (r : Result) (s : State) : (s.report r).cmd = s.cmd := rfl
@[simp] theorem State.report_sched (r : Result) (s : State) : (s.report r).sched = s.sched := rfl
@[simp] theorem State.report_drawn (r : Result) (s : State) : (s.report r).drawn = s.drawn := rfl
@[simp] theorem State.report_booted (r : Result) (s : State) : (s.report r).booted = s.booted := rfl
@[simp] theorem State.report_trace (r : Result) (s : State) : (s.report r).trace = s.trace := rfl
@[simp] theorem State.report_results (r : Result) (s : State) : (s.report r).results = s.results ++ [r] := rfl
@[simp] theorem State.report_rsp (r : Result) (s : State) : (s.report r).rsp = s.rsp := rfl

@[simp] theorem State.signal_buf (r : Result) (s : State) : (s.signal r).buf = s.buf := rfl
@[simp] theorem State.signal_rd (r : Result) (s : State) : (s.signal r).rd = s.rd := rfl
@[simp] theorem State.signal_wr (r : Result) (s : State) : (s.signal r).wr = s.wr := rfl
@[simp] theorem State.signal_count (r : Result) (s : State) : (s.signal r).count = s.count := rfl
@[simp] theorem State.signal_shift (r : Result) (s : State) : (s.signal r).shift = s.shift := rfl
@[simp] theorem State.signal_armed (r : Result) (s : State) : (s.signal r).armed = s.armed := rfl
@[simp] theorem State.signal_tickPending (r : Result) (s : State) : (s.signal r).tickPending = s.tickPending := rfl
@[simp] theorem State.signal_ie (r : Result) (s : State) : (s.signal r).ie = s.ie := rfl
@[simp] theorem State.signal_tx (r : Result) (s : State) : (s.signal r).tx = s.tx := rfl
@[simp] theorem State.signal_prod (r : Result) (s : State) : (s.signal r).prod = s.prod := rfl
@[simp] theorem State.signal_cfg (r : Result) (s : State) : (s.signal r).cfg = s.cfg := rfl
@[simp] theorem State.signal_cmd (r : Result) (s : State) : (s.signal r).cmd = s.cmd := rfl
@[simp] theorem State.signal_sched (r : Result) (s : State) : (s.signal r).sched = s.sched := rfl
@[simp] theorem State.signal_drawn (r : Result) (s : State) : (s.signal r).drawn = s.drawn := rfl
@[simp] theorem State.signal_booted (r : Result) (s : State) : (s.signal r).booted = s.booted := rfl
@[simp] theorem State.signal_trace (r : Result) (s : State) : (s.signal r).trace = s.trace := rfl
@[simp] theorem State.signal_results (r : Result) (s : State) : (s.signal r).results = s.results := rfl
@[simp] theorem State.signal_rsp (r : Result) (s : State) : (s.signal r).rsp = s.rsp ++ r.rspBit.toList := rfl

@[simp] theorem Result.rspBit_done : Result.done.rspBit = some false := rfl
@[simp] theorem Result.rspBit_ok : Result.ok.rspBit = some false := rfl
@[simp] theorem Result.rspBit_busy : Result.busy.rspBit = some true := rfl
@[simp] theorem Result.rspBit_byte (c : Byte) : (Result.byte c).rspBit = none := rfl

@[simp] theorem State.goto_buf (i : Instr) (pos : Pos) (s : State) : (s.goto i pos).buf = s.buf := rfl
@[simp] theorem State.goto_rd (i : Instr) (pos : Pos) (s : State) : (s.goto i pos).rd = s.rd := rfl
@[simp] theorem State.goto_wr (i : Instr) (pos : Pos) (s : State) : (s.goto i pos).wr = s.wr := rfl
@[simp] theorem State.goto_count (i : Instr) (pos : Pos) (s : State) : (s.goto i pos).count = s.count := rfl
@[simp] theorem State.goto_shift (i : Instr) (pos : Pos) (s : State) : (s.goto i pos).shift = s.shift := rfl
@[simp] theorem State.goto_armed (i : Instr) (pos : Pos) (s : State) : (s.goto i pos).armed = s.armed := rfl
@[simp] theorem State.goto_tickPending (i : Instr) (pos : Pos) (s : State) : (s.goto i pos).tickPending = s.tickPending := rfl
@[simp] theorem State.goto_ie (i : Instr) (pos : Pos) (s : State) : (s.goto i pos).ie = s.ie := rfl
@[simp] theorem State.goto_tx (i : Instr) (pos : Pos) (s : State) : (s.goto i pos).tx = s.tx := rfl
@[simp] theorem State.goto_prod (i : Instr) (pos : Pos) (s : State) : (s.goto i pos).prod = .running i pos := rfl
@[simp] theorem State.goto_cfg (i : Instr) (pos : Pos) (s : State) : (s.goto i pos).cfg = s.cfg := rfl
@[simp] theorem State.goto_cmd (i : Instr) (pos : Pos) (s : State) : (s.goto i pos).cmd = s.cmd := rfl
@[simp] theorem State.goto_sched (i : Instr) (pos : Pos) (s : State) : (s.goto i pos).sched = s.sched := rfl
@[simp] theorem State.goto_drawn (i : Instr) (pos : Pos) (s : State) : (s.goto i pos).drawn = s.drawn := rfl
@[simp] theorem State.goto_booted (i : Instr) (pos : Pos) (s : State) : (s.goto i pos).booted = s.booted := rfl
@[simp] theorem State.goto_trace (i : Instr) (pos : Pos) (s : State) : (s.goto i pos).trace = s.trace := rfl
@[simp] theorem State.goto_results (i : Instr) (pos : Pos) (s : State) : (s.goto i pos).results = s.results := rfl
@[simp] theorem State.goto_rsp (i : Instr) (pos : Pos) (s : State) : (s.goto i pos).rsp = s.rsp := rfl

@[simp] theorem State.endCommand_buf (s : State) : s.endCommand.buf = s.buf := rfl
@[simp] theorem State.endCommand_rd (s : State) : s.endCommand.rd = s.rd := rfl
@[simp] theorem State.endCommand_wr (s : State) : s.endCommand.wr = s.wr := rfl
@[simp] theorem State.endCommand_count (s : State) : s.endCommand.count = s.count := rfl
@[simp] theorem State.endCommand_shift (s : State) : s.endCommand.shift = s.shift := rfl
@[simp] theorem State.endCommand_armed (s : State) : s.endCommand.armed = s.armed := rfl
@[simp] theorem State.endCommand_tickPending (s : State) : s.endCommand.tickPending = s.tickPending := rfl
@[simp] theorem State.endCommand_ie (s : State) : s.endCommand.ie = s.ie := rfl
@[simp] theorem State.endCommand_tx (s : State) : s.endCommand.tx = s.tx := rfl
@[simp] theorem State.endCommand_prod (s : State) : s.endCommand.prod = .idle := rfl
@[simp] theorem State.endCommand_cfg (s : State) : s.endCommand.cfg = s.cfg := rfl
@[simp] theorem State.endCommand_cmd (s : State) : s.endCommand.cmd = s.cmd := rfl
@[simp] theorem State.endCommand_sched (s : State) : s.endCommand.sched = s.sched := rfl
@[simp] theorem State.endCommand_drawn (s : State) : s.endCommand.drawn = s.drawn := rfl
@[simp] theorem State.endCommand_booted (s : State) : s.endCommand.booted = s.booted := rfl
@[simp] theorem State.endCommand_trace (s : State) : s.endCommand.trace = s.trace := rfl
@[simp] theorem State.endCommand_results (s : State) : s.endCommand.results = s.results := rfl
@[simp] theorem State.endCommand_rsp (s : State) : s.endCommand.rsp = s.rsp := rfl

@[simp] theorem State.finish_buf (r : Result) (s : State) : (s.finish r).buf = s.buf := rfl
@[simp] theorem State.finish_rd (r : Result) (s : State) : (s.finish r).rd = s.rd := rfl
@[simp] theorem State.finish_wr (r : Result) (s : State) : (s.finish r).wr = s.wr := rfl
@[simp] theorem State.finish_count (r : Result) (s : State) : (s.finish r).count = s.count := rfl
@[simp] theorem State.finish_shift (r : Result) (s : State) : (s.finish r).shift = s.shift := rfl
@[simp] theorem State.finish_armed (r : Result) (s : State) : (s.finish r).armed = s.armed := rfl
@[simp] theorem State.finish_tickPending (r : Result) (s : State) : (s.finish r).tickPending = s.tickPending := rfl
@[simp] theorem State.finish_ie (r : Result) (s : State) : (s.finish r).ie = s.ie := rfl
@[simp] theorem State.finish_tx (r : Result) (s : State) : (s.finish r).tx = s.tx := rfl
@[simp] theorem State.finish_prod (r : Result) (s : State) : (s.finish r).prod = .idle := rfl
@[simp] theorem State.finish_cfg (r : Result) (s : State) : (s.finish r).cfg = s.cfg := rfl
@[simp] theorem State.finish_cmd (r : Result) (s : State) : (s.finish r).cmd = s.cmd := rfl
@[simp] theorem State.finish_sched (r : Result) (s : State) : (s.finish r).sched = s.sched := rfl
@[simp] theorem State.finish_drawn (r : Result) (s : State) : (s.finish r).drawn = s.drawn := rfl
@[simp] theorem State.finish_booted (r : Result) (s : State) : (s.finish r).booted = s.booted := rfl
@[simp] theorem State.finish_trace (r : Result) (s : State) : (s.finish r).trace = s.trace := rfl
@[simp] theorem State.finish_results (r : Result) (s : State) : (s.finish r).results = s.results ++ [r] := rfl
@[simp] theorem State.finish_rsp (r : Result) (s : State) : (s.finish r).rsp = s.rsp ++ r.rspBit.toList := rfl

@[simp] theorem State.armTick_buf (s : State) : s.armTick.buf = s.buf := rfl
@[simp] theorem State.armTick_rd (s : State) : s.armTick.rd = s.rd := rfl
@[simp] theorem State.armTick_wr (s : State) : s.armTick.wr = s.wr := rfl
@[simp] theorem State.armTick_count (s : State) : s.armTick.count = s.count := rfl
@[simp] theorem State.armTick_shift (s : State) : s.armTick.shift = s.shift := rfl
@[simp] theorem State.armTick_armed (s : State) : s.armTick.armed = true := rfl
@[simp] theorem State.armTick_tickPending (s : State) : s.armTick.tickPending = s.tickPending := rfl
@[simp] theorem State.armTick_ie (s : State) : s.armTick.ie = s.ie := rfl
@[simp] theorem State.armTick_tx (s : State) : s.armTick.tx = s.tx := rfl
@[simp] theorem State.armTick_prod (s : State) : s.armTick.prod = s.prod := rfl
@[simp] theorem State.armTick_cfg (s : State) : s.armTick.cfg = s.cfg := rfl
@[simp] theorem State.armTick_cmd (s : State) : s.armTick.cmd = s.cmd := rfl
@[simp] theorem State.armTick_sched (s : State) : s.armTick.sched = s.sched := rfl
@[simp] theorem State.armTick_drawn (s : State) : s.armTick.drawn = s.drawn := rfl
@[simp] theorem State.armTick_booted (s : State) : s.armTick.booted = s.booted := rfl
@[simp] theorem State.armTick_trace (s : State) : s.armTick.trace = s.trace := rfl
@[simp] theorem State.armTick_results (s : State) : s.armTick.results = s.results := rfl
@[simp] theorem State.armTick_rsp (s : State) : s.armTick.rsp = s.rsp := rfl

@[simp] theorem State.armTickClear_buf (s : State) : s.armTickClear.buf = s.buf := rfl
@[simp] theorem State.armTickClear_rd (s : State) : s.armTickClear.rd = s.rd := rfl
@[simp] theorem State.armTickClear_wr (s : State) : s.armTickClear.wr = s.wr := rfl
@[simp] theorem State.armTickClear_count (s : State) : s.armTickClear.count = s.count := rfl
@[simp] theorem State.armTickClear_shift (s : State) : s.armTickClear.shift = s.shift := rfl
@[simp] theorem State.armTickClear_armed (s : State) : s.armTickClear.armed = true := rfl
@[simp] theorem State.armTickClear_tickPending (s : State) : s.armTickClear.tickPending = false := rfl
@[simp] theorem State.armTickClear_ie (s : State) : s.armTickClear.ie = s.ie := rfl
@[simp] theorem State.armTickClear_tx (s : State) : s.armTickClear.tx = s.tx := rfl
@[simp] theorem State.armTickClear_prod (s : State) : s.armTickClear.prod = s.prod := rfl
@[simp] theorem State.armTickClear_cfg (s : State) : s.armTickClear.cfg = s.cfg := rfl
@[simp] theorem State.armTickClear_cmd (s : State) : s.armTickClear.cmd = s.cmd := rfl
@[simp] theorem State.armTickClear_sched (s : State) : s.armTickClear.sched = s.sched := rfl
@[simp] theorem State.armTickClear_drawn (s : State) : s.armTickClear.drawn = s.drawn := rfl
@[simp] theorem State.armTickClear_booted (s : State) : s.armTickClear.booted = s.booted := rfl
@[simp] theorem State.armTickClear_trace (s : State) : s.armTickClear.trace = s.trace := rfl
@[simp] theorem State.armTickClear_results (s : State) : s.armTickClear.results = s.results := rfl
@[simp] theorem State.armTickClear_rsp (s : State) : s.armTickClear.rsp = s.rsp := rfl

@[simp] theorem State.enterHandler_buf (s : State) : s.enterHandler.buf = s.buf := rfl
@[simp] theorem State.enterHandler_rd (s : State) : s.enterHandler.rd = s.rd := rfl
@[simp] theorem State.enterHandler_wr (s : State) : s.enterHandler.wr = s.wr := rfl
@[simp] theorem State.enterHandler_count (s : State) : s.enterHandler.count = s.count := rfl
@[simp] theorem State.enterHandler_shift (s : State) : s.enterHandler.shift = s.shift := rfl
@[simp] theorem State.enterHandler_armed (s : State) : s.enterHandler.armed = s.armed := rfl
@[simp] theorem State.enterHandler_tickPending (s : State) : s.enterHandler.tickPending = false := rfl
@[simp] theorem State.enterHandler_ie (s : State) : s.enterHandler.ie = s.ie := rfl
@[simp] theorem State.enterHandler_tx (s : State) : s.enterHandler.tx = s.tx := rfl
@[simp] theorem State.enterHandler_prod (s : State) : s.enterHandler.prod = s.prod := rfl
@[simp] theorem State.enterHandler_cfg (s : State) : s.enterHandler.cfg = s.cfg := rfl
@[simp] theorem State.enterHandler_cmd (s : State) : s.enterHandler.cmd = s.cmd := rfl
@[simp] theorem State.enterHandler_sched (s : State) : s.enterHandler.sched = s.sched := rfl
@[simp] theorem State.enterHandler_drawn (s : State) : s.enterHandler.drawn = s.drawn := rfl
@[simp] theorem State.enterHandler_booted (s : State) : s.enterHandler.booted = s.booted := rfl
@[simp] theorem State.enterHandler_trace (s : State) : s.enterHandler.trace = s.trace := rfl
@[simp] theorem State.enterHandler_results (s : State) : s.enterHandler.results = s.results := rfl
@[simp] theorem State.enterHandler_rsp (s : State) : s.enterHandler.rsp = s.rsp := rfl

@[simp] theorem State.leaveHandler_buf (s : State) : s.leaveHandler.buf = s.buf := rfl
@[simp] theorem State.leaveHandler_rd (s : State) : s.leaveHandler.rd = s.rd := rfl
@[simp] theorem State.leaveHandler_wr (s : State) : s.leaveHandler.wr = s.wr := rfl
@[simp] theorem State.leaveHandler_count (s : State) : s.leaveHandler.count = s.count := rfl
@[simp] theorem State.leaveHandler_shift (s : State) : s.leaveHandler.shift = s.shift := rfl
@[simp] theorem State.leaveHandler_armed (s : State) : s.leaveHandler.armed = s.armed := rfl
@[simp] theorem State.leaveHandler_tickPending (s : State) : s.leaveHandler.tickPending = s.tickPending := rfl
@[simp] theorem State.leaveHandler_ie (s : State) : s.leaveHandler.ie = s.ie := rfl
@[simp] theorem State.leaveHandler_tx (s : State) : s.leaveHandler.tx = s.tx := rfl
@[simp] theorem State.leaveHandler_prod (s : State) : s.leaveHandler.prod = s.prod := rfl
@[simp] theorem State.leaveHandler_cfg (s : State) : s.leaveHandler.cfg = s.cfg := rfl
@[simp] theorem State.leaveHandler_cmd (s : State) : s.leaveHandler.cmd = s.cmd := rfl
@[simp] theorem State.leaveHandler_sched (s : State) : s.leaveHandler.sched = s.sched := rfl
@[simp] theorem State.leaveHandler_drawn (s : State) : s.leaveHandler.drawn = s.drawn := rfl
@[simp] theorem State.leaveHandler_booted (s : State) : s.leaveHandler.booted = s.booted := rfl
@[simp] theorem State.leaveHandler_trace (s : State) : s.leaveHandler.trace = s.trace ++ [s.tx] := rfl
@[simp] theorem State.leaveHandler_results (s : State) : s.leaveHandler.results = s.results := rfl
@[simp] theorem State.leaveHandler_rsp (s : State) : s.leaveHandler.rsp = s.rsp := rfl

/-- The reset state's memory is in canonical form. -/
theorem reset_memory_wf : State.reset.buf.wf := List.Pairwise.nil

/-- The reset parameters are legal (R7). -/
theorem resetConfig_wf : resetConfig.wf := by decide

end Sys2Proof.Machine
end

