-- ==== Sys2Proof/Laws/Ops.lean ====
section
/-! SUPPORT. One lemma for each shared operation that says once everything it can do. -/

namespace Sys2Proof.Machine

variable {α β : Type}

@[simp] theorem andThen_next (a : α) (f : α → Res β) : andThen (.next a) f = f a := rfl
@[simp] theorem andThen_fault (r : Fault) (f : α → Res β) : andThen (.fault r) f = .fault r := rfl
@[simp] theorem andThen_refused (r : Refusal) (f : α → Res β) : andThen (.refused r) f = .refused r := rfl

/-- `o ; f` answers next exactly when both do. -/
theorem andThen_eq_next {o : Res α} {f : α → Res β} {b : β} :
    andThen o f = .next b ↔ ∃ a, o = .next a ∧ f a = .next b := by
  cases o <;> simp [andThen]

/-- The state after the body of an enqueue (R110, R113). -/
def State.pushed (b : Byte) (s : State) : State :=
  { s with buf := s.buf.write s.wr b, wr := (s.wr + 1) % s.cfg.capacity, count := s.count + 1 }

/-- The state after the body of a dequeue (R112). -/
def State.popped (s : State) : State :=
  { s with rd := (s.rd + 1) % s.cfg.capacity, count := s.count - 1 }

/-- The state after the body of an emit tick (R131). -/
def State.emitted (s : State) : State :=
  { s with
    tx := s.shift.getLsbD 0
    shift := s.shift >>> 1
    armed := if s.shift >>> 1 = 0#12 ∧ s.count = 0 then false else s.armed }

/-- The state after the body of a load tick (R132). -/
def State.loaded (s : State) : State :=
  { s.popped with shift := frame s.cfg.parity (s.buf.slot s.rd) }

/-- Everything `STORE` can do: under its precondition and with its slot in the ring it answers the pushed state. -/
theorem storeByte_eq (b : Byte) (s : State) :
    storeByte b s =
      if s.count < s.cfg.capacity then
        if s.wr < s.cfg.capacity then .next (s.pushed b) else .fault .noSuchSlot
      else .refused .storeWhileFull := by
  by_cases h : s.count < s.cfg.capacity <;> by_cases g : s.wr < s.cfg.capacity <;>
    simp [storeByte, crit, pushByte, State.pushed, advance, h, g]

theorem storeByte_next (b : Byte) {s : State} (h : s.count < s.cfg.capacity) (g : s.wr < s.cfg.capacity) :
    storeByte b s = .next (s.pushed b) := by
  simp [storeByte_eq, h, g]

/-- When `STORE` answers next, its precondition held and the answer is the pushed state. -/
theorem storeByte_eq_next {b : Byte} {s t : State} :
    storeByte b s = .next t ↔ s.count < s.cfg.capacity ∧ s.wr < s.cfg.capacity ∧ t = s.pushed b := by
  rw [storeByte_eq]
  split <;> (try split) <;> simp_all [eq_comm]

/-- Everything `TRY_ENQUEUE` can do (R110). -/
theorem tryEnqueueByte_eq (b : Byte) (s : State) :
    tryEnqueueByte b s =
      if s.count = s.cfg.capacity then .next (s, .busy)
      else if s.wr < s.cfg.capacity then .next (s.pushed b, .ok) else .fault .noSuchSlot := by
  obtain ⟨buf, rd, wr, count, _, _, _, _, _, _, cfg, _, _, _, _, _, _, _⟩ := s
  by_cases h : count = cfg.capacity <;> by_cases g : wr < cfg.capacity <;>
    simp [tryEnqueueByte, crit, pushByte, State.isFull, State.pushed, advance, h, g]

/-- Everything `DEQUEUE` can do (R112). -/
theorem popByte_eq (s : State) :
    popByte s =
      if s.count = 0 then .fault .dequeueEmpty
      else if s.rd < s.cfg.capacity then .next (s.popped, s.buf.slot s.rd) else .fault .noSuchSlot := rfl

theorem popByte_eq_next {s t : State} {c : Byte} :
    popByte s = .next (t, c) ↔
      s.count ≠ 0 ∧ s.rd < s.cfg.capacity ∧ t = s.popped ∧ c = s.buf.slot s.rd := by
  rw [popByte_eq]
  split <;> (try split) <;> simp_all [eq_comm]

/-- Everything the body of a load tick can do (R132). -/
theorem loadFrame_eq (s : State) :
    loadFrame s =
      if s.count = 0 then .fault .dequeueEmpty
      else if s.rd < s.cfg.capacity then .next s.loaded else .fault .noSuchSlot := by
  unfold loadFrame
  rw [popByte_eq]
  split <;> (try split) <;> rfl

theorem emitBit_eq (s : State) : emitBit s = .next s.emitted := rfl

/-- Which arm the selector names (R91). -/
theorem decodeSelector_selector (s : State) :
    decodeSelector s.selector =
      if s.shift ≠ 0#12 then .tickEmit else if s.count ≠ 0 then .tickLoad else .tickNop := by
  unfold State.selector State.sending State.isEmpty
  by_cases h : s.shift = 0#12 <;> by_cases g : s.count = 0 <;> simp [h, g] <;> decide

/-- A TICK is deliverable exactly under the three conditions of R196. -/
theorem tickEnabled_iff (s : State) :
    s.tickEnabled = true ↔ s.armed = true ∧ s.ie = true ∧ s.tickPending = true := by
  simp [State.tickEnabled, and_assoc]

/-- When a taken TICK answers next: it was deliverable, its arm was the selected one, and its body answered next. -/
theorem takeTick_eq_next {which : Instr} {body : State → Res State} {s t : State} :
    takeTick which body s = .next t ↔
      s.tickEnabled = true ∧ decodeSelector s.selector = which ∧
        ∃ u, body s.enterHandler = .next u ∧ t = u.leaveHandler := by
  unfold takeTick
  by_cases h : s.tickEnabled = true <;> by_cases g : decodeSelector s.selector = which <;>
    simp [h, g, andThen_eq_next, eq_comm (a := t)]

/-- Everything a deliverable TICK does (R130): the selected arm between entry and return. -/
theorem execTick_enabled {s : State} (h : s.tickEnabled = true) :
    execTick s =
      if s.shift ≠ 0#12 then .next s.enterHandler.emitted.leaveHandler
      else if s.count ≠ 0 then
        if s.rd < s.cfg.capacity then .next s.enterHandler.loaded.leaveHandler else .fault .noSuchSlot
      else .next s.enterHandler.leaveHandler := by
  unfold execTick execTickEmit execTickLoad execTickNop takeTick
  simp only [h, if_true, decodeSelector_selector, loadFrame_eq, emitBit_eq, noAction]
  by_cases hs : s.shift = 0#12 <;> by_cases hc : s.count = 0 <;> by_cases hr : s.rd < s.cfg.capacity <;>
    simp [hs, hc, hr]

/-- A TICK that is not deliverable is refused, whichever arm the state selects. -/
theorem execTick_disabled {s : State} (h : s.tickEnabled = false) : execTick s = .refused .tickNotEnabled := by
  unfold execTick execTickEmit execTickLoad execTickNop takeTick
  simp [h]

/-- Where an idle producer's operation stands. -/
theorem position_idle {s : State} (i : Instr) (h : s.prod = .idle) : position i s = some (entryPos i) := by
  simp [position, h]

/-- Where the command in progress stands. -/
theorem position_running {s : State} {i : Instr} {pos : Pos} (h : s.prod = .running i pos) :
    position i s = some pos := by
  simp [position, h]

/-- Where any other operation stands meanwhile. -/
theorem position_other {s : State} {i j : Instr} {pos : Pos} (h : s.prod = .running j pos) (hij : i ≠ j) :
    position i s = none := by
  simp [position, h, hij.symm]

end Sys2Proof.Machine
end

