-- ==== Sys2Proof/Laws/Exec.lean ====
section
/-! SUPPORT. Once and for all what an operation can do (Effect, exec_effect), and what taking the next event does. -/

namespace Sys2Proof.Machine

/-- The operations of the handler, and the two that the producer shares with nobody: those that no effect of an enqueuing
or arming operation can come from. -/
abbrev notProducers : List Instr := [.init, .tick, .tickEmit, .tickLoad, .tickNop, .dequeue]

/-- What stands on `rsp` after an operation that leaves the producer at `p` and the results at `rs`: what stood there, or
also the code of a result of a command that has ended. -/
def Signalled (i : Instr) (s : State) (p : Producer) (rs : List Result) (qs : List Bool) : Prop :=
  qs = s.rsp ∨ ∃ r ∈ commandResults i, p = .idle ∧ rs = s.results ++ [r] ∧ qs = s.rsp ++ r.rspBit.toList

/-- Everything an operation can do to the state when it answers next. -/
inductive Effect (i : Instr) (s : State) : State → Prop
  /-- `INIT` (R160) -/
  | init (hi : i = .init) (hp : s.prod = .idle) :
    Effect i s
      { s with
        rd := 0, wr := 0, count := 0, shift := 0#12, armed := false, tx := true, prod := .idle, booted := true
        results := s.results ++ [.done], rsp := s.rsp ++ [false] }
  /-- a poll, a test or `BUSY`: only the producer's position, the results and `rsp` move -/
  | quiet (p : Producer) (rs : List Result) (qs : List Bool) (hi : i ∉ notProducers) (hq : Signalled i s p rs qs) :
    Effect i s { s with prod := p, results := rs, rsp := qs }
  /-- a store -/
  | stored (b : Byte) (p : Producer) (rs : List Result) (hi : i ∉ notProducers)
      (hc : s.count ≠ s.cfg.capacity) (hw : s.wr < s.cfg.capacity) :
    Effect i s { s.pushed b with prod := p, results := rs }
  /-- `ARM` or `ARM_CLR` -/
  | arming (p : Producer) (rs : List Result) (qs : List Bool) (pend : Bool)
      (ha : i = .arm ∨ i = .armClr ∨ s.prod = .running i .arming) (hi : i ∉ notProducers)
      (hq : Signalled i s p rs qs) :
    Effect i s { s with armed := true, tickPending := pend, prod := p, results := rs, rsp := qs }
  /-- `DEQUEUE` by itself -/
  | popped (hi : i = .dequeue) (hc : s.count ≠ 0) (hr : s.rd < s.cfg.capacity) :
    Effect i s { s.popped with results := s.results ++ [.byte (s.buf.slot s.rd)] }
  /-- an emit tick -/
  | emit (hi : i = .tick ∨ i = .tickEmit) (he : s.tickEnabled = true) (hs : s.shift ≠ 0#12) :
    Effect i s s.enterHandler.emitted.leaveHandler
  /-- a load tick -/
  | load (hi : i = .tick ∨ i = .tickLoad) (he : s.tickEnabled = true) (hs : s.shift = 0#12) (hc : s.count ≠ 0)
      (hr : s.rd < s.cfg.capacity) :
    Effect i s s.enterHandler.loaded.leaveHandler
  /-- a tick of an idle, empty engine -/
  | nop (hi : i = .tick ∨ i = .tickNop) (he : s.tickEnabled = true) (hs : s.shift = 0#12) (hc : s.count = 0) :
    Effect i s s.enterHandler.leaveHandler

/-- An operation that has a position is issued by an idle producer, or is the one in progress. -/
theorem position_some {i : Instr} {s : State} {pos : Pos} (h : position i s = some pos) :
    (s.prod = .idle ∧ pos = entryPos i) ∨ s.prod = .running i pos := by
  unfold position at h
  split at h
  · next hp => exact .inl ⟨hp, by simpa using h.symm⟩
  · split at h <;> simp_all

/-- What the store of a command answers. -/
theorem storeThen_next {b : Byte} {i : Instr} {pos : Pos} {s t : State} (h : storeThen b i pos s = .next t) :
    s.count < s.cfg.capacity ∧ s.wr < s.cfg.capacity ∧ t = (s.pushed b).goto i pos := by
  simp only [storeThen, andThen_eq_next, storeByte_eq_next] at h
  obtain ⟨_, ⟨h1, h2, rfl⟩, h⟩ := h
  cases h
  exact ⟨h1, h2, rfl⟩

/-- What the store of a byte of a string answers. -/
theorem storeStringByte_next {bs : List Byte} {len k : Nat} {i : Instr} {s t : State}
    (h : storeStringByte bs len k i s = .next t) :
    ∃ b, bs[k]? = some b ∧ s.count < s.cfg.capacity ∧ s.wr < s.cfg.capacity ∧
      t = (s.pushed b).goto i (stringPos len (k + 1)) := by
  unfold storeStringByte stringByte at h
  split at h
  · next b hb => exact ⟨b, hb, storeThen_next h⟩
  · cases h

/-- An emit tick that answers next. -/
theorem takeTick_emit {i : Instr} {s t : State} (h : takeTick .tickEmit emitBit s = .next t)
    (hi : i = .tick ∨ i = .tickEmit) : Effect i s t := by
  obtain ⟨he, hd, u, hu, rfl⟩ := takeTick_eq_next.1 h
  cases hu
  rw [decodeSelector_selector] at hd
  by_cases hs : s.shift = 0#12 <;> by_cases hc : s.count = 0 <;> simp [hs, hc] at hd <;> exact .emit hi he hs

/-- A load tick that answers next. -/
theorem takeTick_load {i : Instr} {s t : State} (h : takeTick .tickLoad loadFrame s = .next t)
    (hi : i = .tick ∨ i = .tickLoad) : Effect i s t := by
  obtain ⟨he, hd, u, hu, rfl⟩ := takeTick_eq_next.1 h
  rw [loadFrame_eq] at hu
  split at hu
  · cases hu
  · split at hu
    · cases hu
      next hc hr =>
      rw [decodeSelector_selector] at hd
      by_cases hs : s.shift = 0#12
      · exact .load hi he hs hc hr
      · simp [hs] at hd
    · cases hu

/-- An idle tick that answers next. -/
theorem takeTick_nop {i : Instr} {s t : State} (h : takeTick .tickNop noAction s = .next t)
    (hi : i = .tick ∨ i = .tickNop) : Effect i s t := by
  obtain ⟨he, hd, u, hu, rfl⟩ := takeTick_eq_next.1 h
  cases hu
  rw [decodeSelector_selector] at hd
  by_cases hs : s.shift = 0#12 <;> by_cases hc : s.count = 0 <;> simp [hs, hc] at hd
  exact .nop hi he hs hc

/-- The inversion of `exec`: when an operation answers next, one of these effects is what it did. -/
theorem exec_effect {i : Instr} {s t : State} (h : exec i s = .next t) : Effect i s t := by
  cases i <;> simp only [exec] at h
  case init =>
    unfold execInit at h; split at h <;> cases h
    next hp => exact .init rfl hp
  case tryPut b =>
    unfold execTryPut at h
    split at h
    · rw [tryEnqueueByte_eq] at h
      split at h
      · cases h; exact .quiet _ _ _ (by simp) (.inr ⟨.busy, by simp [commandResults], rfl, rfl, rfl⟩)
      · split at h
        · cases h; next hc hw => exact .stored b _ _ (by simp) hc hw
        · cases h
    · next hp =>
      cases h
      refine .arming _ _ _ s.tickPending (.inr (.inr ?_)) (by simp) (.inr ⟨.ok, by simp [commandResults], rfl, rfl, rfl⟩)
      rcases position_some hp with ⟨_, h⟩ | h
      · cases h
      · exact h
    · cases h
    · cases h
  case put b =>
    unfold execPut at h
    split at h
    · cases h; exact .quiet _ _ _ (by simp) (.inl rfl)
    · obtain ⟨h1, h2, rfl⟩ := storeThen_next h; exact .stored b _ _ (by simp) (by omega) h2
    · next hp =>
      cases h
      refine .arming _ _ _ false (.inr (.inr ?_)) (by simp) (.inr ⟨.done, by simp [commandResults], rfl, rfl, rfl⟩)
      rcases position_some hp with ⟨_, h⟩ | h
      · cases h
      · exact h
    · cases h
    · cases h
  case tryPutString bs len =>
    unfold execTryPutString at h
    split at h
    · split at h <;> cases h
      · exact .quiet _ _ _ (by simp) (.inr ⟨.busy, by simp [commandResults], rfl, rfl, rfl⟩)
      · exact .quiet _ _ _ (by simp) (.inl rfl)
    · obtain ⟨b, _, h1, h2, rfl⟩ := storeStringByte_next h; exact .stored b _ _ (by simp) (by omega) h2
    · next hp =>
      cases h
      refine .arming _ _ _ s.tickPending (.inr (.inr ?_)) (by simp) (.inr ⟨.ok, by simp [commandResults], rfl, rfl, rfl⟩)
      rcases position_some hp with ⟨_, h⟩ | h
      · cases h
      · exact h
    · cases h
    · cases h
  case putString bs len =>
    unfold execPutString at h
    split at h
    · cases h; exact .quiet _ _ _ (by simp) (.inl rfl)
    · obtain ⟨b, _, h1, h2, rfl⟩ := storeStringByte_next h; exact .stored b _ _ (by simp) (by omega) h2
    · next hp =>
      cases h
      refine .arming _ _ _ false (.inr (.inr ?_)) (by simp) (.inr ⟨.done, by simp [commandResults], rfl, rfl, rfl⟩)
      rcases position_some hp with ⟨_, h⟩ | h
      · cases h
      · exact h
    · cases h
    · cases h
  case tick =>
    unfold execTick at h
    split at h
    · exact takeTick_emit h (.inl rfl)
    · split at h
      · exact takeTick_load h (.inl rfl)
      · exact takeTick_nop h (.inl rfl)
  case tickEmit => exact takeTick_emit h (.inr rfl)
  case tickLoad => exact takeTick_load h (.inr rfl)
  case tickNop => exact takeTick_nop h (.inr rfl)
  case store b =>
    obtain ⟨h1, h2, rfl⟩ := storeByte_eq_next.1 h; exact .stored b _ _ (by simp) (by omega) h2
  case tryEnqueue b =>
    unfold execTryEnqueue at h
    rw [tryEnqueueByte_eq] at h
    split at h
    · cases h; exact .quiet _ _ _ (by simp) (.inl rfl)
    · split at h
      · cases h; next hc hw => exact .stored b _ _ (by simp) hc hw
      · cases h
  case enqueue b =>
    unfold execEnqueue at h
    split at h
    · cases h; exact .quiet _ _ _ (by simp) (.inl rfl)
    · simp only [andThen_eq_next, storeByte_eq_next] at h
      obtain ⟨_, ⟨h1, h2, rfl⟩, h⟩ := h
      cases h; exact .stored b _ _ (by simp) (by omega) h2
    · cases h
    · cases h
  case dequeue =>
    unfold execDequeue at h
    simp only [andThen_eq_next] at h
    obtain ⟨⟨u, c⟩, hp, h⟩ := h
    obtain ⟨h1, h2, rfl, rfl⟩ := popByte_eq_next.1 hp
    cases h; exact .popped rfl h1 h2
  case arm => cases h; exact .arming _ _ _ s.tickPending (.inl rfl) (by simp) (.inl rfl)
  case armClr => cases h; exact .arming _ _ _ false (.inr (.inl rfl)) (by simp) (.inl rfl)

/-- Taking the next event off leaves everything but what is laid down and the counter of free events. -/
theorem nextEvent_state (s : State) :
    ∃ es n, (nextEvent s).2 = { s with sched := es, drawn := n } := by
  unfold nextEvent
  split
  · exact ⟨_, _, rfl⟩
  · exact ⟨_, _, rfl⟩

/-- The next event when one is laid down. -/
theorem nextEvent_cons {s : State} {e : Event} {es : List Event} (h : s.sched = e :: es) :
    nextEvent s = (e, { s with sched := es }) := by
  simp [nextEvent, h]

/-- A step is what its event does. -/
theorem step_eq {s t : State} {e : Event} (h : nextEvent s = (e, t)) : step s = runEvent e t := by
  simp [step, h]

end Sys2Proof.Machine
end

