-- ==== Sys2Proof/Laws/PerInstr.lean ====
section
/-! SUPPORT. The family EncodeLength of statements about every instruction as syntax: how many words its encoding has. -/

namespace Sys2Proof.Laws.EncodeLength

/-- R93: the length of a command is told by its first word: one word, and one for each payload word it announces. -/
def Statement (i : Instr) : Prop :=
  ∀ w ws, encode i = some (w :: ws) → ws.length = payloadCount w

/-- An operation the port cannot carry has no words (R92, R93). -/
theorem of_not_fitsPort {i : Instr} (h : i.fitsPort = false) : Statement i := by
  intro w ws he
  unfold encode at he
  rw [h] at he
  cases he

theorem init : Statement .init := by
  intro w ws h
  simp only [encode, Instr.fitsPort, if_true, Option.some.injEq, List.cons.injEq] at h
  obtain ⟨rfl, rfl⟩ := h
  rfl

theorem tryPut (b : Byte) : Statement (.tryPut b) := by
  intro w ws h
  simp only [encode, Instr.fitsPort, if_true, Option.some.injEq, List.cons.injEq] at h
  obtain ⟨rfl, rfl⟩ := h
  simp [payloadCount, opField_commandWord]

theorem put (b : Byte) : Statement (.put b) := by
  intro w ws h
  simp only [encode, Instr.fitsPort, if_true, Option.some.injEq, List.cons.injEq] at h
  obtain ⟨rfl, rfl⟩ := h
  simp [payloadCount, opField_commandWord]

theorem tryPutString (bs : List Byte) (len : Nat) : Statement (.tryPutString bs len) := by
  intro w ws h
  simp only [encode, Instr.fitsPort, stringWords, Bool.and_eq_true, decide_eq_true_eq, Option.ite_none_right_eq_some,
    Option.some.injEq, List.cons.injEq] at h
  obtain ⟨⟨hl, h255⟩, rfl, rfl⟩ := h
  simp [payloadCount, opField_commandWord, argField_commandWord, hl]
  omega

theorem putString (bs : List Byte) (len : Nat) : Statement (.putString bs len) := by
  intro w ws h
  simp only [encode, Instr.fitsPort, stringWords, Bool.and_eq_true, decide_eq_true_eq, Option.ite_none_right_eq_some,
    Option.some.injEq, List.cons.injEq] at h
  obtain ⟨⟨hl, h255⟩, rfl, rfl⟩ := h
  simp [payloadCount, opField_commandWord, argField_commandWord, hl]
  omega

theorem tick : Statement .tick := of_not_fitsPort rfl
theorem tickEmit : Statement .tickEmit := of_not_fitsPort rfl
theorem tickLoad : Statement .tickLoad := of_not_fitsPort rfl
theorem tickNop : Statement .tickNop := of_not_fitsPort rfl
theorem store (b : Byte) : Statement (.store b) := of_not_fitsPort rfl
theorem tryEnqueue (b : Byte) : Statement (.tryEnqueue b) := of_not_fitsPort rfl
theorem enqueue (b : Byte) : Statement (.enqueue b) := of_not_fitsPort rfl
theorem dequeue : Statement .dequeue := of_not_fitsPort rfl
theorem arm : Statement .arm := of_not_fitsPort rfl
theorem armClr : Statement .armClr := of_not_fitsPort rfl

end Sys2Proof.Laws.EncodeLength
end

