-- ==== Sys2Proof/Tests/Slice0.lean ====
section
/-! SUPPORT. Tests of single steps with results from 95_test_vectors.md and words written out from 30_encoding.md, and for
every obligation with hypotheses a witness that they can be met. -/

namespace Sys2Proof.Tests
open Sys2Proof Sys2Proof.Machine

/-! ## Well-formedness: each check refuses an ill-formed term -/

theorem test_wf_refuses_no_slots : ¬ Config.wf ⟨0, .none, 9600⟩ := by decide
theorem test_wf_refuses_no_rate : ¬ Config.wf ⟨1, .even, 0⟩ := by decide
theorem test_wf_refuses_short_try_string : (Instr.tryPutString [1] 2).wellFormed = false := by decide
theorem test_wf_refuses_short_string : (Instr.putString [] 1).wellFormed = false := by decide
theorem test_port_refuses_short_strings :
    (Instr.tryPutString [1] 2).fitsPort = false ∧ (Instr.putString [] 1).fitsPort = false := by decide
theorem test_port_refuses_long_strings :
    (Instr.tryPutString (List.replicate 256 0) 256).fitsPort = false ∧
    (Instr.putString (List.replicate 256 0) 256).fitsPort = false := by decide +kernel
theorem test_port_refuses_internal_operations :
    [Instr.tick, .tickEmit, .tickLoad, .tickNop, .store 0, .tryEnqueue 0, .enqueue 0, .dequeue, .arm, .armClr].all
      (fun i => !i.fitsPort && encode i == none) = true := by decide
theorem test_memory_refuses_unsorted : ¬ Memory.wf [(1, 0), (0, 0)] ∧ ¬ Memory.wf [(1, 0), (1, 0)] := by decide

/-! ## Decoding: words written out bit by bit (R86 to R91, A15, A16) -/

theorem test_decode_init : decode [0b0000_0000_00000000] = .got .init [] := by decide
theorem test_decode_try_put : decode [0b0001_0000_01000001, 0x5000] = .got (.tryPut 0x41) [0x5000] := by decide
theorem test_decode_put : decode [0b0010_0000_11111111] = .got (.put 0xFF) [] := by decide
theorem test_decode_try_put_string :
    decode [0b0011_0000_00000010, 0b00000000_00000100, 0b00000000_10000101] =
      .got (.tryPutString [0x04, 0x85] 2) [] := by decide
theorem test_decode_put_string :
    decode [0b0100_0000_00000010, 0b00000000_01000001, 0b00000000_01000010] =
      .got (.putString [0x41, 0x42] 2) [] := by decide
theorem test_decode_waits_for_payload : decode [0x4002, 0x0041] = .incomplete ∧ decode [] = .incomplete := by decide
theorem test_decode_refuses_payload_early : decode [0x3003, 0x0141] = .reject .payloadHigh := by decide
theorem test_decode_refuses_reserved_op :
    (List.range 11).all (fun k => decode [BitVec.ofNat 16 ((k + 5) * 4096)] == .reject .reservedOp) = true := by decide
theorem test_decode_refuses_zero_field :
    (List.range 5).all (fun k => decode [BitVec.ofNat 16 (k * 4096 + 256)] == .reject .zeroField) = true := by decide
theorem test_decode_selectors :
    decodeTableWord 8 0b11 = some .tickEmit ∧ decodeTableWord 8 0b10 = some .tickEmit ∧
    decodeTableWord 8 0b01 = some .tickLoad ∧ decodeTableWord 8 0b00 = some .tickNop ∧
    decodeTableWord 8 0b100 = none := by decide
theorem test_decode_table_words :
    decodeTableWord 16 0x0000 = some .init ∧ decodeTableWord 16 0x10A3 = some (.tryPut 0xA3) ∧
    decodeTableWord 16 0x4002 = some (.putString [0, 0] 2) ∧ decodeTableWord 16 0x5000 = none := by decide
theorem test_encode_is_the_table :
    encode .init = some [0x0000] ∧ encode (.tryPut 0x04) = some [0x1004] ∧ encode (.put 0x7E) = some [0x207E] ∧
    encode (.tryPutString [4, 5, 6] 2) = some [0x3002, 0x0004, 0x0005] ∧
    encode (.putString [0x0D] 1) = some [0x4001, 0x000D] := by decide

/-! ## Frames (F1 to F3, F6) -/

theorem test_frame_words :
    frame .none 0x41 = 0x682 ∧ frame .none 0x80 = 0x700 ∧ frame .none 0xFF = 0x7FE ∧
    frame .even 0x41 = 0xC82 ∧ frame .even 0x01 = 0xE02 ∧ frame .even 0xFF = 0xDFE ∧
    frame .odd 0x41 = 0xE82 ∧ frame .odd 0xA3 = 0xF46 ∧ frame .odd 0xFF = 0xFFE := by decide
theorem test_receive_frame :
    receiveFrame .none [false, true, false, false, false, false, false, true, false, true, true] = some 0x41 ∧
    receiveFrame .even [false, true, false, false, false, false, false, true, false, true, true, true] = none := by
  decide

/-! ## One step of each operation, on rows of the tables of 95_test_vectors.md -/

/-- A row of the tables: the listed slots from slot 0, `rd`, `wr`, `count`, `shift`, `armed`, `tx`. -/
structure Row where
  buf : List Byte
  rd : Nat
  wr : Nat
  count : Nat
  shift : ShiftReg
  armed : Bool
  tx : Bool
  deriving DecidableEq, Repr

/-- The state of a row: `n` slots, a tick pending, interrupts enabled, the producer idle. -/
def Row.state (n : Nat) (p : Parity) (r : Row) : State :=
  { State.launch ⟨n, p, 9600⟩ (r.buf.zipIdx.map fun q => (q.2, q.1)) true true with
    rd := r.rd, wr := r.wr, count := r.count, shift := r.shift, armed := r.armed, tx := r.tx }

/-- The row of a state. -/
def rowOf (s : State) : Row := ⟨s.buf.map Prod.snd, s.rd, s.wr, s.count, s.shift, s.armed, s.tx⟩

/-- The row and the results after a step; none where it stops. -/
def rowAfter (o : Res State) : Option (Row × List Result) :=
  match o with
  | .next t => some (rowOf t, t.results)
  | .fault _ => none
  | .refused _ => none

/-- The sample that a TICK adds to the trace; none where it stops. -/
def sampleAfter (o : Res State) : List Bool :=
  match o with
  | .next t => t.trace
  | .fault _ => []
  | .refused _ => []

/-- Q14. -/
theorem test_store : rowAfter (exec (.store 0x5C) (Row.state 1 .none ⟨[0xA3], 0, 0, 0, 0, false, true⟩)) =
    some (⟨[0x5C], 0, 0, 1, 0, false, true⟩, []) := by decide
/-- Q15: outside the precondition. -/
theorem test_store_full : exec (.store 0x5C) (Row.state 1 .none ⟨[0xA3], 0, 0, 1, 0, true, true⟩) =
    .refused .storeWhileFull := rfl
/-- Q4: `wr` wraps. -/
theorem test_try_enqueue : rowAfter (exec (.tryEnqueue 0x33) (Row.state 3 .none ⟨[0x11, 0x22], 1, 2, 1, 0, true, true⟩)) =
    some (⟨[0x11, 0x22, 0x33], 1, 0, 2, 0, true, true⟩, [.ok]) := by decide
/-- Q6. -/
theorem test_try_enqueue_busy :
    rowAfter (exec (.tryEnqueue 0x55) (Row.state 3 .none ⟨[0x44, 0x22, 0x33], 1, 1, 3, 0, true, true⟩)) =
    some (⟨[0x44, 0x22, 0x33], 1, 1, 3, 0, true, true⟩, [.busy]) := by decide
/-- Q16: the poll of a full queue goes on polling. -/
theorem test_enqueue_polls :
    exec (.enqueue 0x66) (Row.state 3 .none ⟨[0x44, 0x22, 0x33], 1, 1, 3, 0, true, true⟩) =
      .next { Row.state 3 .none ⟨[0x44, 0x22, 0x33], 1, 1, 3, 0, true, true⟩ with
        prod := .running (.enqueue 0x66) .polling } := rfl
/-- Q16: the store after a slot is free. -/
theorem test_enqueue_stores :
    rowAfter (exec (.enqueue 0x66) { Row.state 3 .none ⟨[0x44, 0x22, 0x33], 2, 1, 2, 0, true, true⟩ with
      prod := .running (.enqueue 0x66) (.storing 0) }) =
    some (⟨[0x44, 0x66, 0x33], 2, 2, 3, 0, true, true⟩, []) := by decide
/-- Q8: `rd` wraps and the slot keeps its byte. -/
theorem test_dequeue : rowAfter (exec .dequeue (Row.state 3 .none ⟨[0x44, 0x22, 0x33], 2, 1, 2, 0, true, true⟩)) =
    some (⟨[0x44, 0x22, 0x33], 0, 1, 1, 0, true, true⟩, [.byte 0x33]) := by decide
/-- Q10. -/
theorem test_dequeue_empty : exec .dequeue (Row.state 3 .none ⟨[0x44, 0x22, 0x33], 1, 1, 0, 0, true, true⟩) =
    .fault .dequeueEmpty := rfl
/-- T2. -/
theorem test_tick_emit : rowAfter (exec .tickEmit (Row.state 2 .none ⟨[0x41], 1, 1, 0, 0x682, true, true⟩)) =
    some (⟨[0x41], 1, 1, 0, 0x341, true, false⟩, []) := by decide
/-- T3. -/
theorem test_tick_emit_disarms : rowAfter (exec .tickEmit (Row.state 2 .none ⟨[0x41], 1, 1, 0, 1, true, true⟩)) =
    some (⟨[0x41], 1, 1, 0, 0, false, true⟩, []) := by decide
/-- T5. -/
theorem test_tick_load : rowAfter (exec .tickLoad (Row.state 2 .none ⟨[0x41, 0x42], 1, 0, 1, 0, true, true⟩)) =
    some (⟨[0x41, 0x42], 0, 0, 0, 0x684, true, true⟩, []) := by decide
/-- T9. -/
theorem test_tick_load_even : rowAfter (exec .tickLoad (Row.state 2 .even ⟨[0x80], 0, 1, 1, 0, true, true⟩)) =
    some (⟨[0x80], 1, 1, 0, 0xF00, true, true⟩, []) := by decide
/-- T6. -/
theorem test_tick_nop : rowAfter (exec .tickNop (Row.state 2 .none ⟨[0x41], 1, 1, 0, 0, true, true⟩)) =
    some (⟨[0x41], 1, 1, 0, 0, true, true⟩, []) := by decide
/-- T6: the sample repeats the resting level. -/
theorem test_tick_nop_sample : sampleAfter (exec .tickNop (Row.state 2 .none ⟨[0x41], 1, 1, 0, 0, true, true⟩)) =
    [true] := by decide
/-- T7: emit wins over load. -/
theorem test_tick_emits_first : rowAfter (exec .tick (Row.state 2 .none ⟨[0x41, 0x42], 1, 0, 1, 0x341, true, false⟩)) =
    some (⟨[0x41, 0x42], 1, 0, 1, 0x1A0, true, true⟩, []) := by decide
/-- T13. -/
theorem test_tick_disarmed : exec .tick (Row.state 2 .none ⟨[0x41], 1, 1, 0, 0x682, false, true⟩) =
    .refused .tickNotEnabled := rfl
/-- A1. -/
theorem test_init : rowAfter (exec .init (Row.state 3 .none ⟨[0x99, 0x88, 0x77], 2, 1, 2, 0x1A0, true, false⟩)) =
    some (⟨[0x99, 0x88, 0x77], 0, 0, 0, 0, false, true⟩, [.done]) := by decide
/-- R161: the pending tick stays. -/
theorem test_arm : exec .arm (Row.state 2 .none ⟨[], 0, 0, 0, 0, false, true⟩) =
    .next (Row.state 2 .none ⟨[], 0, 0, 0, 0, true, true⟩) := rfl
/-- R162: the pending tick goes. -/
theorem test_arm_clr : exec .armClr (Row.state 2 .none ⟨[], 0, 0, 0, 0, false, true⟩) =
    .next { Row.state 2 .none ⟨[], 0, 0, 0, 0, true, true⟩ with tickPending := false } := rfl
/-- R163, its example: the store of the first step. -/
theorem test_try_put : rowAfter (exec (.tryPut 0x10) (Row.state 4 .none ⟨[], 0, 0, 0, 0, false, true⟩)) =
    some (⟨[0x10], 0, 1, 1, 0, false, true⟩, []) := by decide
/-- A5. -/
theorem test_try_put_busy : rowAfter (exec (.tryPut 4) (Row.state 3 .none ⟨[1, 2, 3], 0, 0, 3, 0, true, true⟩)) =
    some (⟨[1, 2, 3], 0, 0, 3, 0, true, true⟩, [.busy]) := by decide
/-- A14: the poll of a full queue. -/
theorem test_put_polls : exec (.put 1) (Row.state 2 .none ⟨[7, 8], 0, 0, 2, 0, true, true⟩) =
    .next { Row.state 2 .none ⟨[7, 8], 0, 0, 2, 0, true, true⟩ with prod := .running (.put 1) .polling } := rfl
/-- A11: the store. -/
theorem test_put_stores : rowAfter (exec (.put 0x7E)
    { Row.state 2 .none ⟨[], 0, 0, 0, 0, true, true⟩ with prod := .running (.put 0x7E) (.storing 0) }) =
    some (⟨[0x7E], 0, 1, 1, 0, true, true⟩, []) := by decide
/-- A7. -/
theorem test_try_put_string_busy :
    rowAfter (exec (.tryPutString [4, 5] 2) (Row.state 3 .none ⟨[1, 2, 3], 1, 0, 2, 0x602, true, true⟩)) =
    some (⟨[1, 2, 3], 1, 0, 2, 0x602, true, true⟩, [.busy]) := by decide
/-- A8: the store of byte 0 in the freed slot. -/
theorem test_try_put_string_stores : rowAfter (exec (.tryPutString [4] 1)
    { Row.state 3 .none ⟨[1, 2, 3], 1, 0, 2, 0x602, true, true⟩ with
      prod := .running (.tryPutString [4] 1) (.storing 0) }) =
    some (⟨[4, 2, 3], 1, 1, 3, 0x602, true, true⟩, []) := by decide
/-- A13: a string longer than the queue polls. -/
theorem test_put_string_polls : exec (.putString [1, 2, 3] 3) (Row.state 2 .none ⟨[], 0, 0, 0, 0, true, true⟩) =
    .next { Row.state 2 .none ⟨[], 0, 0, 0, 0, true, true⟩ with
      prod := .running (.putString [1, 2, 3] 3) .polling } := rfl
/-- A12: the store. -/
theorem test_put_string_stores : rowAfter (exec (.putString [0x0D] 1)
    { Row.state 2 .none ⟨[0x7E], 0, 1, 1, 0, true, true⟩ with prod := .running (.putString [0x0D] 1) (.storing 0) }) =
    some (⟨[0x7E, 0x0D], 0, 0, 2, 0, true, true⟩, []) := by decide

/-- The signal `rsp` after a step; none where it stops. -/
def rspAfter (o : Res State) : Option (List Bool) :=
  match o with
  | .next t => some t.rsp
  | .fault _ => none
  | .refused _ => none

/-- A17 on A2: the arming step that ends the command signals OK as 0. -/
theorem test_rsp_ok : rspAfter (exec (.tryPutString [1, 2, 3] 3)
    { Row.state 3 .none ⟨[1, 2, 3], 0, 0, 3, 0, false, true⟩ with
      prod := .running (.tryPutString [1, 2, 3] 3) .arming }) = some [false] := by decide
/-- A17 on A4: BUSY is 1. -/
theorem test_rsp_busy : rspAfter (exec (.tryPutString [4] 1) (Row.state 3 .none ⟨[1, 2, 3], 0, 0, 3, 0, true, true⟩)) =
    some [true] := by decide
/-- U11: a DEQUEUE from mainline is refused. -/
theorem test_mainline_dequeue : step { Row.state 2 .none ⟨[0x41], 0, 1, 1, 0, true, true⟩ with
    prod := .running .dequeue .start, sched := [.producer] } = .refused .outsideContext := rfl

/-! ## Witnesses: the hypotheses of each obligation are met -/

/-- `N = 2`, one byte queued, armed, idle, a tick pending. -/
def oneQueued : State := Row.state 2 .none ⟨[0x41], 0, 1, 1, 0, true, true⟩
/-- `N = 2`, full, armed, idle. -/
def full : State := Row.state 2 .none ⟨[0x41, 0x42], 0, 0, 2, 0, true, true⟩
/-- `N = 2`, empty, armed, idle. -/
def emptyArmed : State := Row.state 2 .none ⟨[], 0, 0, 0, 0, true, true⟩
/-- `N = 2`, empty, disarmed: right after `INIT`. -/
def fresh : State := Row.state 2 .none ⟨[], 0, 0, 0, 0, false, true⟩
/-- `N = 2`, the frame of 0x41 loaded, nothing emitted. -/
def loaded : State := Row.state 2 .none ⟨[0x41], 1, 1, 0, 0x682, true, true⟩
/-- `N = 2`, one stop bit left. -/
def lastBit : State := Row.state 2 .none ⟨[0x41], 1, 1, 0, 1, true, true⟩

/-- The invariant does not read the port or the events laid down. -/
theorem inv_laid {s : State} (h : s.Inv) (ws : List CmdWord) (es : List Event) :
    State.Inv { s with cmd := ws, sched := es } :=
  ⟨h.config, h.canonical, h.slots, h.rd_lt, h.room, h.wr_eq, h.stored, h.inFlight, h.mark, h.disarmed, h.producer,
    h.booted⟩

theorem oneQueued_inv : oneQueued.Inv :=
  ⟨by decide, by decide, by decide, by decide, by decide, by decide, by decide, .inl rfl, fun _ => rfl, nofun, rfl, rfl⟩
theorem full_inv : full.Inv :=
  ⟨by decide, by decide, by decide, by decide, by decide, by decide, by decide, .inl rfl, fun _ => rfl, nofun, rfl, rfl⟩
theorem emptyArmed_inv : emptyArmed.Inv :=
  ⟨by decide, by decide, by decide, by decide, by decide, by decide, by decide, .inl rfl, fun _ => rfl, nofun, rfl, rfl⟩
theorem fresh_inv : fresh.Inv :=
  ⟨by decide, by decide, by decide, by decide, by decide, by decide, by decide, .inl rfl, fun _ => rfl,
    fun _ => ⟨rfl, .inl rfl⟩, rfl, rfl⟩
theorem loaded_inv : loaded.Inv :=
  ⟨by decide, by decide, by decide, by decide, by decide, by decide, by decide,
    .inr ⟨0x41, 0, by decide, by decide⟩, fun _ => rfl, nofun, rfl, rfl⟩
theorem lastBit_inv : lastBit.Inv :=
  ⟨by decide, by decide, by decide, by decide, by decide, by decide, by decide,
    .inr ⟨0x41, 10, by decide, by decide⟩, fun _ => rfl, nofun, rfl, rfl⟩
theorem fresh_isLaunch : fresh.isLaunch :=
  ⟨by decide, by decide, by decide, rfl, rfl, rfl, rfl, rfl, rfl, rfl, rfl⟩

/-- DecodeEncodeGivesTheCommandBack, at both ends of the length of a string. -/
theorem witness_encode :
    encode (.tryPutString [7] 0) = some [0x3000] ∧ (encode (.putString (List.replicate 255 9) 255)).isSome = true := by
  decide +kernel
/-- DecodedWordsAreTheEncoding. -/
theorem witness_decoded : decode [0x4001, 0x00FF, 0x5000] = .got (.putString [0xFF] 1) [0x5000] := by decide
/-- ReservedEncodingsAreRefused: the producer is idle and moves next. -/
theorem witness_reserved_state (w : CmdWord) (ws : List CmdWord) :
    nextEvent { fresh with sched := [.producer], cmd := w :: ws } = (.producer, { fresh with cmd := w :: ws }) ∧
    fresh.prod = .idle := ⟨rfl, rfl⟩
/-- ReservedEncodingsAreRefused: a word for each clause. -/
theorem witness_reserved_words :
    5 ≤ (opField 0x5000).toNat ∧ ¬ 5 ≤ (opField 0x4FFF).toNat ∧ zeroField 0x1141 ≠ 0#4 ∧
    (opField 0x0001 = 0#4 ∧ argField 0x0001 ≠ 0#8) ∧
    (opField 0x3001 = 3#4 ∧ 0 < (argField 0x3001).toNat ∧ ([0x0141] : List CmdWord)[0]? = some 0x0141 ∧
      payloadHigh 0x0141 ≠ 0#8) ∧ opField 0x4002 = 4#4 := by decide
/-- ParityFrameLayout. -/
theorem witness_parity_modes :
    (Parity.even = .even ∧ false = false ∨ Parity.even = .odd ∧ false = true) ∧
    (Parity.odd = .even ∧ true = false ∨ Parity.odd = .odd ∧ true = true) := by decide
/-- StoreWritesTheSlotAtWr and TryEnqueueStoresOrAnswersBusy, at the last slot and on a full queue. -/
theorem witness_room :
    oneQueued.count < oneQueued.cfg.capacity ∧ oneQueued.wr < oneQueued.cfg.capacity ∧
    oneQueued.wr + 1 = oneQueued.cfg.capacity ∧ oneQueued.count ≠ oneQueued.cfg.capacity ∧
    full.count = full.cfg.capacity := by decide
/-- EnqueuePollsThenStores. -/
theorem witness_enqueue :
    position (.enqueue 1) full = some .polling ∧ ¬ full.count < full.cfg.capacity ∧
    position (.enqueue 1) oneQueued = some .polling ∧ oneQueued.count < oneQueued.cfg.capacity ∧
    position (.enqueue 1) { oneQueued with prod := .running (.enqueue 1) (.storing 0) } = some (.storing 0) := by decide
/-- DequeuePopsTheSlotAtRd. -/
theorem witness_dequeue :
    fresh.count = 0 ∧ 0 < oneQueued.count ∧ oneQueued.rd < oneQueued.cfg.capacity := by decide
/-- QueueIsFirstInFirstOut. -/
theorem witness_fifo :
    oneQueued.rd < oneQueued.cfg.capacity ∧ oneQueued.count ≤ oneQueued.cfg.capacity ∧
    oneQueued.wr = (oneQueued.rd + oneQueued.count) % oneQueued.cfg.capacity ∧
    (∃ t, exec (.store 9) oneQueued = .next t) ∧ ∃ t, exec .dequeue oneQueued = .next t :=
  ⟨by decide, by decide, by decide, ⟨_, rfl⟩, ⟨_, rfl⟩⟩
/-- MemoryChangesOnlyAtWr: a store and another slot, and an operation that stores nothing and the slot at `wr`. -/
theorem witness_memory :
    (∃ t, exec (.store 9) oneQueued = .next t ∧ ¬ (0 = oneQueued.wr ∧ t.count = oneQueued.count + 1)) ∧
    ∃ t, exec .arm oneQueued = .next t ∧ ¬ (oneQueued.wr = oneQueued.wr ∧ t.count = oneQueued.count + 1) :=
  ⟨⟨_, rfl, by decide⟩, ⟨_, rfl, by decide⟩⟩
/-- RingRegistersMoveTogether: one operation for each alternative. -/
theorem witness_ring :
    (∃ t, exec .init loaded = .next t) ∧ (∃ t, exec .arm oneQueued = .next t ∧ t.count = oneQueued.count) ∧
    (∃ t, exec (.tryPut 9) oneQueued = .next t ∧ t.count = oneQueued.count + 1) ∧
    ∃ t, exec .tick oneQueued = .next t ∧ oneQueued.count = t.count + 1 :=
  ⟨⟨_, rfl⟩, ⟨_, rfl, by decide⟩, ⟨_, rfl, by decide⟩, ⟨_, rfl, by decide⟩⟩
/-- TickRunsTheSelectedArm, EmitTickDrivesTheNextBit, LoadTickLoadsTheOldestByte, IdleTickChangesNothing. -/
theorem witness_arms :
    (lastBit.tickEnabled = true ∧ lastBit.shift ≠ 0#12) ∧
    (oneQueued.tickEnabled = true ∧ oneQueued.shift = 0#12 ∧ oneQueued.count ≠ 0 ∧
      oneQueued.rd < oneQueued.cfg.capacity) ∧
    (emptyArmed.tickEnabled = true ∧ emptyArmed.shift = 0#12 ∧ emptyArmed.count = 0) := by decide
/-- TickEntryAndReturn, HandlerCannotSeeTheProducersState: each of the four forms completes. -/
theorem witness_tick_forms :
    (∃ t, exec .tick loaded = .next t) ∧ (∃ t, exec .tickEmit loaded = .next t) ∧
    (∃ t, exec .tickLoad oneQueued = .next t) ∧ ∃ t, exec .tickNop emptyArmed = .next t :=
  ⟨⟨_, rfl⟩, ⟨_, rfl⟩, ⟨_, rfl⟩, ⟨_, rfl⟩⟩
/-- TickOccursExactlyWhenDeliverable, both clauses. -/
theorem witness_deliverable :
    State.Inv { oneQueued with sched := [.handler] } ∧
    nextEvent { oneQueued with sched := [.handler] } = (.handler, oneQueued) ∧
    (oneQueued.armed = true ∧ oneQueued.ie = true ∧ oneQueued.tickPending = true) ∧
    State.Inv { fresh with sched := [.handler] } ∧
    ¬ (fresh.armed = true ∧ fresh.ie = true ∧ fresh.tickPending = true) :=
  ⟨(inv_laid oneQueued_inv _ _), rfl, by decide, (inv_laid fresh_inv _ _), by decide⟩
/-- BitsLeftCountDown: a load, the first bit, and the last bit. -/
theorem witness_bits :
    (oneQueued.Inv ∧ ∃ t, exec .tickLoad oneQueued = .next t) ∧
    (loaded.Inv ∧ bitsLeft loaded.shift = frameWidth .none ∧ ∃ t, exec .tickEmit loaded = .next t) ∧
    (lastBit.Inv ∧ bitsLeft lastBit.shift = 1 ∧ lastBit.count = 0 ∧ ∃ t, exec .tickEmit lastBit = .next t) :=
  ⟨⟨(inv_laid oneQueued_inv _ _), _, rfl⟩, ⟨(inv_laid loaded_inv _ _), by decide, _, rfl⟩, ⟨(inv_laid lastBit_inv _ _), by decide, by decide, _, rfl⟩⟩
/-- OneByteTakesWidthPlusOneTicks. -/
theorem witness_one_byte :
    let s : State := { oneQueued with sched := tickEvents (frameWidth .none + 1) ++ [Event.producer] }
    s.Inv ∧ s.armed = true ∧ s.ie = true ∧ s.shift = 0#12 ∧ s.count ≠ 0 ∧
    s.sched = tickEvents (frameWidth s.cfg.parity + 1) ++ [Event.producer] :=
  ⟨(inv_laid oneQueued_inv _ _), rfl, rfl, rfl, by decide, rfl⟩
/-- QueueDrainsAndDisarms, with a full queue. -/
theorem witness_drain :
    let s : State := { full with sched := tickEvents (2 * (frameWidth .none + 1)) ++ [Event.producer] }
    s.Inv ∧ s.armed = true ∧ s.ie = true ∧ s.shift = 0#12 ∧ s.count ≠ 0 ∧
    s.sched = tickEvents (s.count * (frameWidth s.cfg.parity + 1)) ++ [Event.producer] :=
  ⟨(inv_laid full_inv _ _), rfl, rfl, rfl, by decide, rfl⟩
/-- ArmedIdleEngineTicksToNoEffect. -/
theorem witness_idle_ticks :
    let s : State := { emptyArmed with sched := tickEvents 1 ++ [Event.producer] }
    s.booted = true ∧ s.armed = true ∧ s.ie = true ∧ s.shift = 0#12 ∧ s.count = 0 ∧
    s.sched = tickEvents (0 + 1) ++ [Event.producer] := by decide
/-- DisarmedEngineIsInert. -/
theorem witness_inert :
    Event.producer ∉ [Event.period, .setIe true, .handler, .deliver [0x1041]] ∧ fresh.armed = false := by decide
/-- InitGivesALaunchState, both clauses. -/
theorem witness_init :
    loaded.prod = .idle ∧ loaded.cfg.wf ∧ loaded.buf.wf ∧ (∀ p ∈ loaded.buf, p.1 < loaded.cfg.capacity) ∧
    ∃ t, exec .init loaded = .next t :=
  ⟨by decide, by decide, by decide, by decide, _, rfl⟩
/-- TryPutStepByStep. -/
theorem witness_try_put :
    position (.tryPut 1) full = some .start ∧ full.count = full.cfg.capacity ∧
    position (.tryPut 1) oneQueued = some .start ∧ oneQueued.count ≠ oneQueued.cfg.capacity ∧
    oneQueued.wr < oneQueued.cfg.capacity ∧
    position (.tryPut 1) { oneQueued with prod := .running (.tryPut 1) .arming } = some .arming := by decide
/-- PutStepByStep. -/
theorem witness_put :
    position (.put 1) full = some .polling ∧ ¬ full.count < full.cfg.capacity ∧
    position (.put 1) { oneQueued with prod := .running (.put 1) .polling } = some .polling ∧
    oneQueued.count < oneQueued.cfg.capacity ∧
    position (.put 1) { oneQueued with prod := .running (.put 1) (.storing 0) } = some (.storing 0) ∧
    oneQueued.wr < oneQueued.cfg.capacity ∧
    position (.put 1) { oneQueued with prod := .running (.put 1) .arming } = some .arming := by decide
/-- TryPutStringStepByStep: one slot free, two and one wanted, and none wanted of a full queue. -/
theorem witness_try_put_string :
    position (.tryPutString [1, 2] 2) oneQueued = some .checking ∧ oneQueued.cfg.capacity - oneQueued.count < 2 ∧
    1 ≤ oneQueued.cfg.capacity - oneQueued.count ∧ 0 ≤ full.cfg.capacity - full.count ∧
    position (.tryPutString [1, 2] 2) { oneQueued with prod := .running (.tryPutString [1, 2] 2) (.storing 1) } =
      some (.storing 1) ∧ ([1, 2] : List Byte)[1]? = some 2 ∧
    position (.tryPutString [] 0) { full with prod := .running (.tryPutString [] 0) .arming } = some .arming := by decide
/-- PutStringStepByStep. -/
theorem witness_put_string :
    position (.putString [1, 2] 2) oneQueued = some .polling ∧ oneQueued.cfg.capacity - oneQueued.count < 2 ∧
    1 ≤ oneQueued.cfg.capacity - oneQueued.count ∧ 0 ≤ full.cfg.capacity - full.count ∧
    position (.putString [1, 2] 2) { oneQueued with prod := .running (.putString [1, 2] 2) (.storing 1) } =
      some (.storing 1) ∧ ([1, 2] : List Byte)[1]? = some 2 ∧
    position (.putString [] 0) { full with prod := .running (.putString [] 0) .arming } = some .arming := by decide
/-- SingleByteCommandsComplete. -/
theorem witness_single_byte :
    oneQueued.prod = .idle ∧ oneQueued.count < oneQueued.cfg.capacity ∧ oneQueued.wr < oneQueued.cfg.capacity := by decide
/-- StringCommandsQueueTheWholeString, with a string that fills the queue and with an empty one. -/
theorem witness_strings :
    emptyArmed.Inv ∧ emptyArmed.prod = .idle ∧ 2 ≤ ([1, 2] : List Byte).length ∧
    emptyArmed.count + 2 ≤ emptyArmed.cfg.capacity ∧ full.Inv ∧ full.prod = .idle ∧ full.count + 0 ≤ full.cfg.capacity :=
  ⟨(inv_laid emptyArmed_inv _ _), rfl, by decide, by decide, (inv_laid full_inv _ _), rfl, by decide⟩
/-- ZeroLengthStringsOnlyArm and BlockingCommandsSpinWithoutRoom. -/
theorem witness_spin :
    full.prod = .idle ∧ full.count = full.cfg.capacity ∧ full.cfg.capacity - full.count < 1 ∧
    emptyArmed.prod = .idle ∧ emptyArmed.cfg.capacity - emptyArmed.count < 3 := by decide
/-- BusyLeavesNoTrace, for both commands. -/
theorem witness_busy :
    (∃ t, exec (.tryPut 1) full = .next t ∧ t.results = full.results ++ [.busy]) ∧
    ∃ t, exec (.tryPutString [1, 2] 2) oneQueued = .next t ∧ t.results = oneQueued.results ++ [.busy] :=
  ⟨⟨_, rfl, rfl⟩, ⟨_, rfl, rfl⟩⟩
/-- RspSignalsTheEndOfACommand: a done event, and an operation that signals nothing. -/
theorem witness_rsp :
    (∃ t, exec .init loaded = .next t ∧ t.rsp = [false] ∧ commandResults .init ≠ [] ∧ t.prod = .idle) ∧
    ∃ t, exec (.tryEnqueue 1) full = .next t ∧ t.rsp = full.rsp :=
  ⟨⟨_, rfl, rfl, by decide, rfl⟩, ⟨_, rfl, rfl⟩⟩
/-- NoSecondCommandWhileOneRuns, each alternative. -/
theorem witness_second_command :
    ({ full with prod := .running (.put 1) .polling } : State).prod = .running (.put 1) .polling ∧
    Instr.tryPut 1 ≠ .put 1 ∧ Instr.enqueue 1 ≠ .put 1 ∧ Instr.put 2 ≠ .put 1 ∧
    Instr.tryPutString [] 3 ≠ .put 1 ∧ Instr.putString [] 3 ≠ .put 1 := by decide
/-- LaunchStatesMeetTheInvariant. -/
theorem witness_launch : fresh.isLaunch := fresh_isLaunch
/-- StepKeepsTheInvariant and StepStopsOnlyAtReservedEncodings: a handler step, a producer step, and a reserved word. -/
theorem witness_step :
    (State.Inv { oneQueued with sched := [.handler] } ∧ ∃ t, step { oneQueued with sched := [.handler] } = .next t) ∧
    (State.Inv { fresh with sched := [.producer] } ∧ ∃ t, step { fresh with sched := [.producer] } = .next t) :=
  ⟨⟨(inv_laid oneQueued_inv _ _), _, rfl⟩, ⟨(inv_laid fresh_inv _ _), _, rfl⟩⟩
/-- EveryRunKeepsTheQueueBounds: a run that has stored a byte. -/
theorem witness_bounds :
    let s : State := { fresh with cmd := [0x1041], sched := [.producer] }
    s.isLaunch ∧ ∃ t, Host.Core.run core 1 s = .next t ∧ t.count = 1 :=
  ⟨{ fresh_isLaunch with }, _, rfl, rfl⟩
/-- StepKeepsTheLedgerBalanced: the frame of 0x41 loaded and nothing emitted. -/
theorem witness_ledger :
    State.Inv { loaded with sched := [.handler] } ∧
    Ledger.balances { accepted := [0x41], emitted := [] } { loaded with sched := [.handler] } ∧
    ∃ t, step { loaded with sched := [.handler] } = .next t :=
  ⟨(inv_laid loaded_inv _ _), by unfold Ledger.balances; decide, _, rfl⟩
/-- EveryRunSendsTheAcceptedBytesInOrder: a byte is accepted and its start bit emitted. -/
theorem witness_run :
    let s : State := { fresh with cmd := [0x1041], sched := [.producer, .producer, .handler, .period, .handler] }
    s.isLaunch ∧ ∃ t, runLedger 5 { accepted := [], emitted := [] } s = some ({ accepted := [0x41], emitted := [false] }, t) :=
  ⟨{ fresh_isLaunch with }, _, rfl⟩
/-- StepRunsTheProducersOperation, each clause. -/
theorem witness_producer :
    nextEvent { fresh with sched := [.producer] } = (.producer, fresh) ∧ fresh.booted = true ∧
    ({ fresh with prod := .running (.put 1) .arming } : State).prod = .running (.put 1) .arming ∧
    hasPositions (.put 1) = true ∧ hasPositions .dequeue = false ∧ hasPositions .tick = false ∧
    ({ fresh with prod := .running .dequeue .start } : State).prod = .running .dequeue .start ∧
    decode ({ fresh with cmd := [0x207E] } : State).cmd = .got (.put 0x7E) [] ∧ decode fresh.cmd = .incomplete := by
  decide
/-- OnlyInitRunsBeforeInit, each clause. -/
theorem witness_before_init :
    let t : State := { emptyArmed with booted := false, cmd := [0x0000] }
    t.booted = false ∧ t.prod = .idle ∧ decode t.cmd = .got .init [] ∧ t.tickEnabled = true ∧
    nextEvent { t with sched := [.producer] } = (.producer, t) ∧
    nextEvent { t with sched := [.handler] } = (.handler, t) ∧
    decode ({ t with cmd := [0x1001] } : State).cmd = .got (.tryPut 1) [] ∧
    ({ t with prod := .running (.put 1) .arming } : State).prod = .running (.put 1) .arming := by decide
/-- StepRunsTheEnvironment, each event as the next one. -/
theorem witness_environment :
    ({ fresh with sched := [.period, .setIe false] } : State).sched = .period :: [.setIe false] ∧
    ({ fresh with sched := [.setIe false] } : State).sched = .setIe false :: [] ∧
    ({ fresh with sched := [.deliver [0x1041], .producer] } : State).sched = .deliver [0x1041] :: [.producer] := by
  decide
/-- LaidWordIsRunNext, at the ends of both encodings. -/
theorem witness_laid :
    decodeTableWord 16 0x30FF = some (.tryPutString (List.replicate 255 0) 255) ∧
    decodeTableWord 8 0 = some .tickNop ∧ decodeTableWord 8 3 = some .tickEmit ∧
    State.reset.rd < State.reset.cfg.capacity := by decide +kernel
/-- ParametersNeverChange, OperationsRestoreTheInterruptEnable, FreeSlotsStayFreeForTheProducer. -/
theorem witness_environment_step :
    (∃ t, step { oneQueued with sched := [.setIe false] } = .next t ∧ t.ie = false) ∧
    (nextEvent { oneQueued with sched := [.handler] }).1 ≠ .producer ∧
    ∃ t, step { oneQueued with sched := [.handler] } = .next t ∧ t.count < oneQueued.count :=
  ⟨⟨_, rfl, rfl⟩, by decide, _, rfl, by decide⟩
/-- ArmedIsSetByArmingAndClearedAtTheEnd, both clauses. -/
theorem witness_armed :
    (∃ t, exec .arm fresh = .next t ∧ fresh.armed = false ∧ t.armed = true) ∧
    ∃ t, exec .tickEmit lastBit = .next t ∧ lastBit.armed = true ∧ t.armed = false :=
  ⟨⟨_, rfl, rfl, rfl⟩, ⟨_, rfl, rfl, by decide⟩⟩
/-- PinIsWrittenByEmitTicksAndInit and FrameIsPrivateToTheHandler. -/
theorem witness_pin :
    (∃ t, exec .tickEmit loaded = .next t ∧ t.tx ≠ loaded.tx) ∧ (∃ t, exec (.put 1) loaded = .next t) ∧
    Instr.put 1 ∉ [Instr.init, .tick, .tickEmit, .tickLoad, .tickNop, .dequeue] :=
  ⟨⟨_, rfl, by decide⟩, ⟨_, rfl⟩, by decide⟩

end Sys2Proof.Tests
end

section
/-! The queue bounds of R25 along every run: what an agent's turn can do, the induction over a run, and the bounds as a
predicate that every effect of an operation keeps. -/

namespace Sys2Proof.Machine

/-- Everything the producer's turn can do when it answers next (R36, R168): an idle producer waits for the words of a
command, issues the command they make up, or a command in progress takes its next step. -/
theorem producerTurn_next {s t : State} (h : producerTurn s = .next t) :
    (s.prod = .idle ∧ decode s.cmd = .incomplete ∧ t = s) ∨
    (∃ i rest, s.prod = .idle ∧ decode s.cmd = .got i rest ∧ (s.booted = true ∨ i = .init) ∧
      exec i { s with cmd := rest } = .next t) ∨
    (∃ i pos, s.prod = .running i pos ∧ s.booted = true ∧ hasPositions i = true ∧ exec i s = .next t) := by
  unfold producerTurn at h
  split at h
  · next i pos hp =>
    split at h
    · next hb =>
      split at h
      · next hi => exact .inr (.inr ⟨i, pos, hp, hb, hi, h⟩)
      · cases h
    · cases h
  · next hp =>
    split at h
    · next i rest hd =>
      split at h
      · next hb => exact .inr (.inl ⟨i, rest, hp, hd, hb, h⟩)
      · cases h
    · next hd => cases h; exact .inl ⟨hp, hd, rfl⟩
    · cases h

/-- Everything the handler's turn can do when it answers next (R196): a deliverable TICK, or nothing. -/
theorem handlerTurn_next {s t : State} (h : handlerTurn s = .next t) :
    (s.tickEnabled = true ∧ s.booted = true ∧ exec .tick s = .next t) ∨ (s.tickEnabled = false ∧ t = s) := by
  unfold handlerTurn at h
  split at h
  · next he =>
    split at h
    · next hb => exact .inl ⟨he, hb, h⟩
    · cases h
  · next he => cases h; exact .inr ⟨by simpa using he, rfl⟩

/-- One more step of a run: a step that goes on, and the rest of the run from there. -/
theorem run_succ_eq_next {n : Nat} {s t : State} :
    Host.Core.run core (n + 1) s = .next t ↔ ∃ u, step s = .next u ∧ Host.Core.run core n u = .next t := by
  change _ ↔ ∃ u, core.step s = .next u ∧ _
  simp only [Host.Core.run]
  cases core.step s <;> simp

/-- What every step keeps, every run keeps. -/
theorem run_keeps {P : State → Prop} (hstep : ∀ s t, P s → step s = .next t → P t) {n : Nat} {s t : State}
    (hs : P s) (h : Host.Core.run core n s = .next t) : P t := by
  induction n generalizing s with
  | zero => cases h; exact hs
  | succ n ih =>
    obtain ⟨u, hu, hrun⟩ := run_succ_eq_next.1 h
    exact ih (hstep s u hs hu) hrun

/-- The queue bounds of R25, in a build with the parameters `c`. -/
structure State.InBounds (c : Config) (s : State) : Prop where
  cfg_eq : s.cfg = c
  count_le : s.count ≤ c.capacity
  rd_lt : s.rd < c.capacity
  wr_lt : s.wr < c.capacity

namespace State.InBounds
variable {c : Config} {s t : State}

/-- A launch state has an empty queue with both indices at 0, and a legal build has a slot (R7, R40). -/
theorem of_isLaunch (h : s.isLaunch) : s.InBounds s.cfg :=
  have hN : 0 < s.cfg.capacity := h.config.1
  ⟨rfl, by simp [h.count], by simpa [h.rd] using hN, by simpa [h.wr] using hN⟩

/-- A store finds a free slot, so `count` stays within `N`; `wr` advances mod `N` (R54, R113). -/
theorem pushed (hs : s.InBounds c) (hc : s.count ≠ s.cfg.capacity) (b : Byte) : (s.pushed b).InBounds c := by
  obtain ⟨rfl, hcount, hrd, hwr⟩ := hs
  exact ⟨rfl, Nat.succ_le_of_lt (lt_of_le_of_ne hcount hc), hrd, Nat.mod_lt _ (Nat.zero_lt_of_lt hwr)⟩

/-- A pop shrinks `count`; `rd` advances mod `N` (R54, R112). -/
theorem popped (hs : s.InBounds c) : s.popped.InBounds c := by
  obtain ⟨rfl, hcount, hrd, hwr⟩ := hs
  exact ⟨rfl, (Nat.sub_le _ _).trans hcount, Nat.mod_lt _ (Nat.zero_lt_of_lt hrd), hwr⟩

/-- Every effect of an operation keeps the bounds: only `INIT`, a store and a pop move the queue. -/
theorem of_effect {i : Instr} (h : Effect i s t) (hs : s.InBounds c) : t.InBounds c := by
  cases h with
  | init =>
    obtain ⟨hcfg, -, hrd, -⟩ := hs
    have hN := Nat.zero_lt_of_lt hrd
    exact ⟨hcfg, hN.le, hN, hN⟩
  | stored b _ _ _ hc => exact { hs.pushed hc b with }
  | popped => exact { hs.popped with }
  | load => exact { hs.popped with }
  | quiet => exact { hs with }
  | arming => exact { hs with }
  | emit => exact { hs with }
  | nop => exact { hs with }

/-- An operation that answers next keeps the bounds. -/
theorem of_exec {i : Instr} (hs : s.InBounds c) (h : exec i s = .next t) : t.InBounds c :=
  of_effect (exec_effect h) hs

/-- Every event keeps the bounds: an agent's turn performs one operation or none, and the environment does not write
the queue. -/
theorem of_runEvent {e : Event} (hs : s.InBounds c) (h : runEvent e s = .next t) : t.InBounds c := by
  cases e with
  | producer =>
    obtain ⟨-, -, rfl⟩ | ⟨i, rest, -, -, -, h⟩ | ⟨i, pos, -, -, -, h⟩ := producerTurn_next h
    · exact hs
    · exact of_exec (s := { s with cmd := rest }) { hs with } h
    · exact hs.of_exec h
  | handler =>
    obtain ⟨-, -, h⟩ | ⟨-, rfl⟩ := handlerTurn_next h
    · exact hs.of_exec h
    · exact hs
  | period => cases h; exact { hs with }
  | setIe v => cases h; exact { hs with }
  | deliver ws => cases h; exact { hs with }

/-- Every step keeps the bounds. -/
theorem of_step (hs : s.InBounds c) (h : step s = .next t) : t.InBounds c := by
  obtain ⟨es, n, he⟩ := nextEvent_state s
  have hu : (nextEvent s).2.InBounds c := he ▸ { hs with }
  exact hu.of_runEvent h

end State.InBounds
end Sys2Proof.Machine

namespace Sys2Proof
open Machine

/-- Settles O45: the bounds hold in every launch state and every step keeps them. -/
theorem everyRunKeepsTheQueueBounds : Obligations.EveryRunKeepsTheQueueBounds := by
  intro n s t hlaunch hrun
  obtain ⟨hcfg, hcount, hrd, hwr⟩ :=
    run_keeps (P := State.InBounds s.cfg) (fun _ _ => State.InBounds.of_step) (State.InBounds.of_isLaunch hlaunch) hrun
  exact ⟨hcfg ▸ hcount, hcfg ▸ hrd, hcfg ▸ hwr, hcfg⟩

end Sys2Proof
end

section
/-! The frame word as its fields (R80, R81, R83, R85): its bits, its value and its width, the parity bit, and the levels in
wire order with the receiver's reading of them (R84, R96). -/

namespace Sys2Proof.Machine

/-- The three bits above the data: the stop bits, and below them the parity bit if there is one (R80, R81). -/
def frameTail : Parity → Byte → BitVec 3
  | .none, _ => 0b011#3
  | .even, c => 0b11#2 ++ BitVec.ofBool (parityBit false c)
  | .odd, c => 0b11#2 ++ BitVec.ofBool (parityBit true c)

theorem parityFrame_eq (q : Bool) (c : Byte) :
    parityFrame q c = ((0b11#2 ++ BitVec.ofBool q).setWidth 12 <<< 9) ||| (c.setWidth 12 <<< 1) := by
  cases q <;> rfl

/-- The frame word is its tail and its data byte, over a start bit 0 (R85). -/
theorem frame_eq (p : Parity) (c : Byte) :
    frame p c = ((frameTail p c).setWidth 12 <<< 9) ||| (c.setWidth 12 <<< 1) := by
  cases p with
  | none => rfl
  | even => exact parityFrame_eq _ c
  | odd => exact parityFrame_eq _ c

/-! ## The bits of the frame word -/

theorem frame_getLsbD_zero (p : Parity) (c : Byte) : (frame p c).getLsbD 0 = false := by
  simp [frame_eq]

theorem frame_getLsbD_data (p : Parity) (c : Byte) {k : Nat} (hk : k < 8) :
    (frame p c).getLsbD (k + 1) = c.getLsbD k := by
  have h : k + 1 < 9 ∧ k + 1 < 12 := by omega
  simp [frame_eq, h]

theorem frame_getLsbD_tail (p : Parity) (c : Byte) {k : Nat} (hk : k < 3) :
    (frame p c).getLsbD (k + 9) = (frameTail p c).getLsbD k := by
  have h : k + 9 < 12 := by omega
  simp [frame_eq, h]

/-- The bits of a tail with parity, from the parity bit up. -/
theorem stopsOverParity_getLsbD (q : Bool) :
    (0b11#2 ++ BitVec.ofBool q).getLsbD 0 = q ∧ (0b11#2 ++ BitVec.ofBool q).getLsbD 1 = true ∧
      (0b11#2 ++ BitVec.ofBool q).getLsbD 2 = true := by
  cases q <;> decide

theorem frame_none_getLsbD_tail (c : Byte) :
    (frame .none c).getLsbD 9 = true ∧ (frame .none c).getLsbD 10 = true ∧ (frame .none c).getLsbD 11 = false := by
  have hstops : (0b011#3).getLsbD 0 = true ∧ (0b011#3).getLsbD 1 = true ∧ (0b011#3).getLsbD 2 = false := by decide
  obtain ⟨h0, h1, h2⟩ := hstops
  exact ⟨(frame_getLsbD_tail .none c (k := 0) (by decide)).trans h0,
    (frame_getLsbD_tail .none c (k := 1) (by decide)).trans h1,
    (frame_getLsbD_tail .none c (k := 2) (by decide)).trans h2⟩

section
variable {p : Parity} {seed : Bool} (h : p = .even ∧ seed = false ∨ p = .odd ∧ seed = true)
include h

theorem frameTail_of_parity (c : Byte) :
    frameTail p c = 0b11#2 ++ BitVec.ofBool (parityBit seed c) := by
  obtain ⟨rfl, rfl⟩ | ⟨rfl, rfl⟩ := h <;> rfl

theorem frame_parity_getLsbD_tail (c : Byte) :
    (frame p c).getLsbD 9 = parityBit seed c ∧ (frame p c).getLsbD 10 = true ∧ (frame p c).getLsbD 11 = true := by
  obtain ⟨h0, h1, h2⟩ := frameTail_of_parity h c ▸ stopsOverParity_getLsbD (parityBit seed c)
  exact ⟨(frame_getLsbD_tail p c (k := 0) (by decide)).trans h0,
    (frame_getLsbD_tail p c (k := 1) (by decide)).trans h1,
    (frame_getLsbD_tail p c (k := 2) (by decide)).trans h2⟩

end

/-- The most significant bit of the frame word is the last stop bit (R83). -/
theorem frame_getLsbD_last (p : Parity) (c : Byte) : (frame p c).getLsbD (frameWidth p - 1) = true := by
  cases p with
  | none =>
    obtain ⟨-, h10, -⟩ := frame_none_getLsbD_tail c
    exact h10
  | even =>
    obtain ⟨-, -, h11⟩ := frame_parity_getLsbD_tail (.inl ⟨rfl, rfl⟩) c
    exact h11
  | odd =>
    obtain ⟨-, -, h11⟩ := frame_parity_getLsbD_tail (.inr ⟨rfl, rfl⟩) c
    exact h11

/-! ## The value and the width of the frame word -/

/-- The or of R83 is a sum, for its fields do not overlap (R85). -/
theorem frame_toNat (p : Parity) (c : Byte) : (frame p c).toNat = 512 * (frameTail p c).toNat + 2 * c.toNat := by
  have hc := c.isLt
  have ht := (frameTail p c).isLt
  calc (frame p c).toNat = 2 ^ 9 * (frameTail p c).toNat ||| 2 * c.toNat := by
        simp (disch := omega) [frame_eq, Nat.shiftLeft_eq, Nat.mod_eq_of_lt, Nat.mul_comm]
    _ = 512 * (frameTail p c).toNat + 2 * c.toNat := (Nat.two_pow_add_eq_or_of_lt (by omega) _).symm

theorem stopsOverParity_toNat (q : Bool) : (0b11#2 ++ BitVec.ofBool q).toNat = 6 + q.toNat := by
  cases q <;> rfl

theorem frame_none_toNat (c : Byte) : (frame .none c).toNat = 1536 + 2 * c.toNat :=
  frame_toNat .none c

theorem frame_parity_toNat {p : Parity} {seed : Bool} (h : p = .even ∧ seed = false ∨ p = .odd ∧ seed = true)
    (c : Byte) : (frame p c).toNat = 3072 + 512 * (parityBit seed c).toNat + 2 * c.toNat := by
  rw [frame_toNat, frameTail_of_parity h, stopsOverParity_toNat, Nat.mul_add]

theorem frame_toNat_lt (p : Parity) (c : Byte) : (frame p c).toNat < 2 ^ frameWidth p := by
  cases p with
  | none =>
    have hc := c.isLt
    rw [frame_none_toNat, frameWidth]
    omega
  | even => exact (frame .even c).isLt
  | odd => exact (frame .odd c).isLt

/-- Until it is shifted `W_F` times, the frame word holds its last stop bit (R83). -/
theorem frame_ushiftRight_ne_zero {p : Parity} {k : Nat} (hk : k < frameWidth p) (c : Byte) :
    frame p c >>> k ≠ 0#12 := by
  intro h
  have hbit : (frame p c >>> k).getLsbD (frameWidth p - 1 - k) = true := by
    rw [BitVec.getLsbD_ushiftRight, Nat.add_sub_cancel' (by omega), frame_getLsbD_last]
  simp [h] at hbit

theorem frame_ushiftRight_frameWidth (p : Parity) (c : Byte) : frame p c >>> frameWidth p = 0#12 :=
  BitVec.eq_of_toNat_eq (by
    rw [BitVec.toNat_ushiftRight, Nat.shiftRight_eq_zero _ _ (frame_toNat_lt p c), BitVec.toNat_ofNat, Nat.zero_mod])

/-- The frame word holds the bits of its byte, so it determines the byte (R83). -/
theorem frame_injective (p : Parity) : Function.Injective (frame p) := fun c d h =>
  BitVec.eq_of_getLsbD_eq fun k hk => by rw [← frame_getLsbD_data p c hk, h, frame_getLsbD_data p d hk]

/-! ## The parity bit -/

/-- Toggling by each set bit is the xor of all bits (R82). -/
theorem parityBit_eq_foldl_xor (seed : Bool) (c : Byte) :
    parityBit seed c = (List.range 8).foldl (fun acc i => acc ^^ c.getLsbD i) seed := by
  have toggle : ∀ acc b : Bool, (if b then !acc else acc) = (acc ^^ b) := by decide
  simp only [parityBit, toggle]

/-- The xor of a seed and some bits has the parity of the seed with the number of set bits. -/
theorem countP_add_foldl_xor_mod_two (f : Nat → Bool) (l : List Nat) (seed : Bool) :
    (l.countP f + (l.foldl (fun acc i => acc ^^ f i) seed).toNat) % 2 = seed.toNat := by
  induction l generalizing seed with
  | nil => cases seed <;> rfl
  | cons x l ih =>
    have hx := ih (seed ^^ f x)
    have hseed := seed.toNat_le
    have toNat_xor : (seed ^^ f x).toNat = (seed.toNat + (f x).toNat) % 2 := by cases seed <;> cases f x <;> rfl
    have ite_toNat : (if f x = true then 1 else 0) = (f x).toNat := by cases f x <;> rfl
    rw [List.countP_cons, List.foldl_cons, ite_toNat]
    omega

/-! ## The levels in wire order and the receiver -/

/-- The data levels of a frame of `c`, bit 0 first (R84). -/
def dataLevels (c : Byte) : List Bool := (List.range 8).map fun k => c.getLsbD k

theorem frameTail_levels (p : Parity) (c : Byte) :
    (List.range (frameWidth p - 9)).map (fun k => (frameTail p c).getLsbD k) = parityLevels p c ++ [true, true] := by
  have hparity (q : Bool) : (List.range 3).map (fun k => (0b11#2 ++ BitVec.ofBool q).getLsbD k) = [q, true, true] := by
    cases q <;> decide
  cases p with
  | none => exact (by decide : (List.range 2).map (fun k => (0b011#3).getLsbD k) = [true, true])
  | even => exact hparity _
  | odd => exact hparity _

/-- The levels of a frame in wire order (R84): start, data, parity if there is one, two stop levels. -/
theorem frameBits_eq (p : Parity) (c : Byte) :
    frameBits p c = false :: dataLevels c ++ parityLevels p c ++ [true, true] := by
  have hdata : (List.range 8).map (fun k => (frame p c).getLsbD (k + 1)) = dataLevels c :=
    List.map_congr_left fun k hk => frame_getLsbD_data p c (List.mem_range.1 hk)
  have htail : (List.range (frameWidth p - 9)).map (fun k => (frame p c).getLsbD (k + 9)) =
      (List.range (frameWidth p - 9)).map fun k => (frameTail p c).getLsbD k :=
    List.map_congr_left fun k hk => frame_getLsbD_tail p c
      ((List.mem_range.1 hk).trans_le (by cases p <;> decide))
  calc frameBits p c = (frame p c).getLsbD 0 :: (List.range 8).map (fun k => (frame p c).getLsbD (k + 1)) ++
        (List.range (frameWidth p - 9)).map (fun k => (frame p c).getLsbD (k + 9)) := by cases p <;> rfl
    _ = false :: dataLevels c ++ parityLevels p c ++ [true, true] := by
        rw [hdata, htail, frameTail_levels, frame_getLsbD_zero, List.append_assoc]

/-- The number whose bits are the first `n` levels of a list. -/
def levelSum (l : List Bool) (n : Nat) : Nat :=
  (List.range n).foldl (fun acc i => if l.getD i false then acc + 2 ^ i else acc) 0

theorem byteOfBits_eq (l : List Bool) : byteOfBits l = BitVec.ofNat 8 (levelSum l 8) := rfl

theorem levelSum_succ (l : List Bool) (n : Nat) :
    levelSum l (n + 1) = 2 ^ n * (l.getD n false).toNat + levelSum l n := by
  simp only [levelSum, List.range_succ, List.foldl_append, List.foldl_cons, List.foldl_nil]
  cases l.getD n false <;> simp [Nat.add_comm]

theorem levelSum_lt (l : List Bool) (n : Nat) : levelSum l n < 2 ^ n := by
  induction n with
  | zero => exact Nat.one_pos
  | succ n ih =>
    have hb : 2 ^ n * (l.getD n false).toNat ≤ 2 ^ n * 1 := Nat.mul_le_mul_left _ (Bool.toNat_le _)
    rw [levelSum_succ]
    omega

theorem levelSum_testBit (l : List Bool) {n k : Nat} (hk : k < n) : (levelSum l n).testBit k = l.getD k false := by
  induction n with
  | zero => cases hk
  | succ n ih =>
    rw [levelSum_succ, Nat.testBit_two_pow_mul_add _ (levelSum_lt l n)]
    split
    · next h => exact ih h
    · next h =>
      obtain rfl : k = n := by omega
      rw [Nat.sub_self]
      cases l.getD k false <;> rfl

theorem byteOfBits_getLsbD (l : List Bool) {k : Nat} (hk : k < 8) : (byteOfBits l).getLsbD k = l.getD k false := by
  rw [byteOfBits_eq, BitVec.getLsbD_ofNat, levelSum_testBit l hk, decide_eq_true hk, Bool.true_and]

theorem dataLevels_length (c : Byte) : (dataLevels c).length = 8 := rfl

theorem dataLevels_getD (c : Byte) {k : Nat} (hk : k < 8) : (dataLevels c).getD k false = c.getLsbD k := by
  simp [dataLevels, hk]

/-- The byte is read off its data levels, whatever follows them. -/
theorem byteOfBits_dataLevels_append (c : Byte) (rest : List Bool) : byteOfBits (dataLevels c ++ rest) = c := by
  apply BitVec.eq_of_getLsbD_eq
  intro k hk
  rw [byteOfBits_getLsbD _ hk, List.getD_append _ _ _ _ hk, dataLevels_getD c hk]

/-- The first eight levels are the data levels of the byte read off them. -/
theorem dataLevels_byteOfBits {l : List Bool} (h : 8 ≤ l.length) : dataLevels (byteOfBits l) = l.take 8 := by
  apply List.ext_getElem
  · simp [dataLevels_length, h]
  · intro k hk _
    have hk : k < 8 := hk
    simp [dataLevels, byteOfBits_getLsbD l hk, hk.trans_le h]

/-- The receiver's conditions are that the levels are those of a frame of the byte read off them (R96). -/
theorem receiveFrame_eq_some {p : Parity} {l : List Bool} {c : Byte} :
    receiveFrame p l = some c ↔
      byteOfBits (l.drop 1) = c ∧ l.length = frameWidth p ∧ l.take 1 = [false] ∧
        l.drop 9 = parityLevels p c ++ [true, true] := by
  simp only [receiveFrame]
  constructor
  · intro h
    split at h
    · next hl => cases h; exact ⟨rfl, hl⟩
    · cases h
  · rintro ⟨rfl, hl⟩
    exact if_pos hl

/-- A receiver reads the levels of the frame of `c` as `c`. -/
theorem receiveFrame_frameBits (p : Parity) (c : Byte) : receiveFrame p (frameBits p c) = some c := by
  refine receiveFrame_eq_some.2 ⟨?_, ?_, ?_, ?_⟩
  · rw [frameBits_eq, List.append_assoc]
    exact byteOfBits_dataLevels_append c _
  · simp [frameBits]
  · rw [frameBits_eq]; rfl
  · rw [frameBits_eq]; rfl

/-- A receiver reads as `c` no other levels than those of the frame of `c`. -/
theorem eq_frameBits_of_receiveFrame {p : Parity} {l : List Bool} {c : Byte} (h : receiveFrame p l = some c) :
    l = frameBits p c := by
  obtain ⟨rfl, hlen, hstart, htail⟩ := receiveFrame_eq_some.1 h
  have h8 : 8 ≤ (l.drop 1).length := by
    rw [List.length_drop, hlen]
    cases p <;> decide
  calc l = l.take 1 ++ ((l.drop 1).take 8 ++ l.drop 9) := by
        rw [← List.drop_drop (i := 8) (j := 1), List.take_append_drop, List.take_append_drop]
    _ = frameBits p (byteOfBits (l.drop 1)) := by
        rw [hstart, ← dataLevels_byteOfBits h8, htail, frameBits_eq, List.append_assoc]
        rfl

end Sys2Proof.Machine

namespace Sys2Proof
open Machine

/-- Settles O9: the frame's bits in order are its fields, and the receiver's conditions put the same fields together. -/
theorem receiverReadsExactlyTheFrames : Obligations.ReceiverReadsExactlyTheFrames := fun p _ c =>
  ⟨frameBits_eq p c, eq_frameBits_of_receiveFrame, fun h => h ▸ receiveFrame_frameBits p c⟩

/-- Settles O5, from the bits of the frame word and of its tail without parity. -/
theorem plainFrameLayout : Obligations.PlainFrameLayout := fun c =>
  have ⟨h9, h10, h11⟩ := frame_none_getLsbD_tail c
  ⟨frame_getLsbD_zero .none c, fun _ => frame_getLsbD_data .none c, h9, h10, h11, rfl⟩

/-- Settles O6, from the bits of the frame word and of its tail with parity. -/
theorem parityFrameLayout : Obligations.ParityFrameLayout := by
  intro c p seed h
  obtain ⟨h9, h10, h11⟩ := frame_parity_getLsbD_tail h c
  have hwidth : frameWidth p = 12 := by obtain ⟨rfl, -⟩ | ⟨rfl, -⟩ := h <;> rfl
  exact ⟨frame_getLsbD_zero p c, fun _ => frame_getLsbD_data p c, h9, h10, h11, hwidth⟩

/-- Settles O7: the accumulator is the xor of the seed and the bits, which has their parity. -/
theorem parityBitBalancesTheByte : Obligations.ParityBitBalancesTheByte := by
  intro c seed
  rw [parityBit_eq_foldl_xor]
  exact ⟨rfl, countP_add_foldl_xor_mod_two _ _ seed⟩

/-- Settles O8, from the value of the frame word as a sum, its last stop bit and its data bits. -/
theorem frameShiftsToZeroAfterItsWidth : Obligations.FrameShiftsToZeroAfterItsWidth := fun p c =>
  ⟨frame_none_toNat c, frame_parity_toNat (.inl ⟨rfl, rfl⟩) c, frame_parity_toNat (.inr ⟨rfl, rfl⟩) c,
    frame_getLsbD_zero p c, frame_getLsbD_last p c, frame_toNat_lt p c,
    fun _ hk => frame_ushiftRight_ne_zero hk c, frame_ushiftRight_frameWidth p c, fun _ h => frame_injective p h⟩

end Sys2Proof
end

section
/-! The queue micro-operations of a single step, from what the shared store and enqueue can do. -/

namespace Sys2Proof.Machine

/-- `TRY_ENQUEUE` hands the answer of the shared enqueue to the caller (R110). -/
theorem exec_tryEnqueue_next {b : Byte} {s t : State} {r : Result} (h : tryEnqueueByte b s = .next (t, r)) :
    exec (.tryEnqueue b) s = .next (t.report r) := by
  change andThen (tryEnqueueByte b s) _ = _
  rw [h, andThen_next]

/-- On a full queue the shared enqueue only answers `BUSY` (R110). -/
theorem tryEnqueueByte_full (b : Byte) {s : State} (h : s.count = s.cfg.capacity) :
    tryEnqueueByte b s = .next (s, .busy) := by
  rw [tryEnqueueByte_eq, if_pos h]

/-- With a free slot the shared enqueue pushes and answers `OK` (R110). -/
theorem tryEnqueueByte_room (b : Byte) {s : State} (h : s.count ≠ s.cfg.capacity) (g : s.wr < s.cfg.capacity) :
    tryEnqueueByte b s = .next (s.pushed b, .ok) := by
  rw [tryEnqueueByte_eq, if_neg h, if_pos g]

end Sys2Proof.Machine

namespace Sys2Proof
open Machine

/-- Settles O10: under its precondition the shared store answers the pushed state. -/
theorem storeWritesTheSlotAtWr : Obligations.StoreWritesTheSlotAtWr := fun b _ h g => storeByte_next b h g

/-- Settles O11, one clause for each answer of the shared enqueue. -/
theorem tryEnqueueStoresOrAnswersBusy : Obligations.TryEnqueueStoresOrAnswersBusy := fun b _ =>
  ⟨fun h => exec_tryEnqueue_next (tryEnqueueByte_full b h),
    fun h g => exec_tryEnqueue_next (tryEnqueueByte_room b h g)⟩

end Sys2Proof
end

section
/-! The emit and load arms of a deliverable TICK, from the rule of `takeTick` and the selector (R130, R131, R132). -/

namespace Sys2Proof.Machine

/-- With a frame in flight the emit arm is the selected one, and it completes (R131). -/
theorem exec_tickEmit_next {s : State} (h : s.tickEnabled = true) (hs : s.shift ≠ 0#12) :
    exec .tickEmit s = .next s.enterHandler.emitted.leaveHandler :=
  have selected : decodeSelector s.selector = .tickEmit := by rw [decodeSelector_selector, if_pos hs]
  takeTick_eq_next.2 ⟨h, selected, _, emitBit_eq _, rfl⟩

/-- With no frame in flight and a byte queued the load arm is the selected one, and it completes (R132). -/
theorem exec_tickLoad_next {s : State} (h : s.tickEnabled = true) (hs : s.shift = 0#12) (hc : s.count ≠ 0)
    (hr : s.rd < s.cfg.capacity) : exec .tickLoad s = .next s.enterHandler.loaded.leaveHandler :=
  have selected : decodeSelector s.selector = .tickLoad := by
    rw [decodeSelector_selector, if_neg (not_not.2 hs), if_pos hc]
  have body : loadFrame s.enterHandler = .next s.enterHandler.loaded := by
    rw [loadFrame_eq, State.enterHandler_count, if_neg hc, State.enterHandler_rd, State.enterHandler_cfg, if_pos hr]
  takeTick_eq_next.2 ⟨h, selected, _, body, rfl⟩

end Sys2Proof.Machine

namespace Sys2Proof
open Machine

/-- Settles O18: the emit arm completes, and each field is read off the emitted state. -/
theorem emitTickDrivesTheNextBit : Obligations.EmitTickDrivesTheNextBit := fun _ h hs =>
  ⟨_, exec_tickEmit_next h hs, rfl, rfl, rfl, rfl, rfl, rfl, rfl, rfl, rfl, rfl, rfl, rfl, rfl⟩

/-- Settles O19: the load arm completes, and each field is read off the loaded state. -/
theorem loadTickLoadsTheOldestByte : Obligations.LoadTickLoadsTheOldestByte := fun _ h hs hc hr =>
  ⟨_, exec_tickLoad_next h hs hc hr, rfl, rfl, rfl, rfl, rfl, rfl, rfl, rfl, rfl, rfl, rfl, rfl, rfl⟩

end Sys2Proof
end

section
/-! What a step of the two commands that can answer `BUSY` does when it answers next (R163, R165), and from that R174. -/

namespace Sys2Proof.Machine

/-- Everything a step of `TRY_PUT` can do (R163): `BUSY` on a full queue, the store, or the arming with `OK`. -/
theorem exec_tryPut_next {b : Byte} {s t : State} (h : exec (.tryPut b) s = .next t) :
    (position (.tryPut b) s = some .start ∧ s.count = s.cfg.capacity ∧ t = s.finish .busy) ∨
    (position (.tryPut b) s = some .start ∧ s.count ≠ s.cfg.capacity ∧ s.wr < s.cfg.capacity ∧
      t = (s.pushed b).goto (.tryPut b) .arming) ∨
    (position (.tryPut b) s = some .arming ∧ t = s.armTick.finish .ok) := by
  simp only [exec, execTryPut] at h
  split at h
  · next hp =>
    rw [tryEnqueueByte_eq] at h
    split at h
    · next hfull => cases h; exact .inl ⟨hp, hfull, rfl⟩
    · next hroom =>
      split at h
      · next hw => cases h; exact .inr (.inl ⟨hp, hroom, hw, rfl⟩)
      · cases h
  · next hp => cases h; exact .inr (.inr ⟨hp, rfl⟩)
  · cases h
  · cases h

/-- Everything a step of `TRY_PUT_STRING` can do (R165): the free-space test with either outcome, the store of a byte of
the string, or the arming with `OK`. -/
theorem exec_tryPutString_next {bs : List Byte} {len : Nat} {s t : State}
    (h : exec (.tryPutString bs len) s = .next t) :
    (position (.tryPutString bs len) s = some .checking ∧ s.cfg.capacity - s.count < len ∧ t = s.finish .busy) ∨
    (position (.tryPutString bs len) s = some .checking ∧ len ≤ s.cfg.capacity - s.count ∧
      t = s.goto (.tryPutString bs len) (stringPos len 0)) ∨
    (∃ k b, position (.tryPutString bs len) s = some (.storing k) ∧ bs[k]? = some b ∧
      s.count < s.cfg.capacity ∧ s.wr < s.cfg.capacity ∧
      t = (s.pushed b).goto (.tryPutString bs len) (stringPos len (k + 1))) ∨
    (position (.tryPutString bs len) s = some .arming ∧ t = s.armTick.finish .ok) := by
  simp only [exec, execTryPutString] at h
  split at h
  · next hp =>
    split at h
    · next hshort => cases h; exact .inl ⟨hp, hshort, rfl⟩
    · next hroom => cases h; exact .inr (.inl ⟨hp, Nat.le_of_not_lt hroom, rfl⟩)
  · next k hp =>
    obtain ⟨b, hb, hc, hw, ht⟩ := storeStringByte_next h
    exact .inr (.inr (.inl ⟨k, b, hp, hb, hc, hw, ht⟩))
  · next hp => cases h; exact .inr (.inr (.inr ⟨hp, rfl⟩))
  · cases h
  · cases h

/-- A step that reports nothing has not answered. -/
theorem results_ne_of_unreported {s t : State} (h : t.results = s.results) (r : Result) :
    t.results ≠ s.results ++ [r] := by
  simp [h]

/-- A command that ends with `OK` has not answered `BUSY`. -/
theorem finish_ok_results_ne_busy (s : State) : (s.finish .ok).results ≠ s.results ++ [.busy] := by
  simp

/-- The steps of `TRY_PUT` and `TRY_PUT_STRING` that answer `BUSY` only end the command (R163, R165). -/
theorem eq_finish_of_busy {i : Instr} {s t : State}
    (hi : (∃ b, i = .tryPut b) ∨ ∃ bs len, i = .tryPutString bs len) (h : exec i s = .next t)
    (hbusy : t.results = s.results ++ [.busy]) : t = s.finish .busy := by
  obtain ⟨b, rfl⟩ | ⟨bs, len, rfl⟩ := hi
  · obtain ⟨-, -, ht⟩ | ⟨-, -, -, rfl⟩ | ⟨-, rfl⟩ := exec_tryPut_next h
    · exact ht
    · exact absurd hbusy (results_ne_of_unreported rfl _)
    · exact absurd hbusy (finish_ok_results_ne_busy s.armTick)
  · obtain ⟨-, -, ht⟩ | ⟨-, -, rfl⟩ | ⟨k, b, -, -, -, -, rfl⟩ | ⟨-, rfl⟩ := exec_tryPutString_next h
    · exact ht
    · exact absurd hbusy (results_ne_of_unreported rfl _)
    · exact absurd hbusy (results_ne_of_unreported rfl _)
    · exact absurd hbusy (finish_ok_results_ne_busy s.armTick)

end Sys2Proof.Machine

namespace Sys2Proof
open Machine

/-- Settles O39: a step that answers `BUSY` only ends the command, which writes `prod`, `results` and `rsp`. -/
theorem busyLeavesNoTrace : Obligations.BusyLeavesNoTrace := fun _ _ _ => eq_finish_of_busy

end Sys2Proof
end

section
/-! Who writes `armed` (R193): what an operation's effect does to it, and the operations that always write it. -/

namespace Sys2Proof.Machine

/-- An effect leaves `armed`, or sets it in an arming, or clears it in `INIT` or in the emit tick after which the register
and the queue are both empty (R193). -/
theorem Effect.armed_cases {i : Instr} {s t : State} (h : Effect i s t) :
    t.armed = s.armed ∨
    (t.armed = true ∧ (i = .arm ∨ i = .armClr ∨ s.prod = .running i .arming)) ∨
    (t.armed = false ∧
      (i = .init ∨ ((i = .tick ∨ i = .tickEmit) ∧ s.shift ≠ 0#12 ∧ t.shift = 0#12 ∧ s.count = 0))) := by
  cases h with
  | init hi => exact .inr (.inr ⟨rfl, .inl hi⟩)
  | arming _ _ _ _ ha => exact .inr (.inl ⟨rfl, ha⟩)
  | emit hi _ hs =>
    by_cases hlast : s.shift >>> 1 = 0#12 ∧ s.count = 0
    · exact .inr (.inr ⟨if_pos hlast, .inr ⟨hi, hs, hlast⟩⟩)
    · exact .inl (if_neg hlast)
  | quiet => exact .inl rfl
  | stored => exact .inl rfl
  | popped => exact .inl rfl
  | load => exact .inl rfl
  | nop => exact .inl rfl

/-- The two arming operations always arm (R161, R162). -/
theorem exec_arm_armed {i : Instr} {s t : State} (hi : i = .arm ∨ i = .armClr) (h : exec i s = .next t) :
    t.armed = true := by
  obtain rfl | rfl := hi <;> cases h <;> rfl

/-- `INIT` always disarms (R160). -/
theorem exec_init_armed {s t : State} (h : exec .init s = .next t) : t.armed = false := by
  simp only [exec, execInit] at h
  split at h
  · cases h; rfl
  · cases h

/-- An emit tick that answers next answers the emitted state, between the handler's entry and return (R131). -/
theorem exec_tickEmit_eq {s t : State} (h : exec .tickEmit s = .next t) :
    t = s.enterHandler.emitted.leaveHandler := by
  obtain ⟨-, -, u, hu, rfl⟩ := takeTick_eq_next.1 h
  cases hu
  rfl

end Sys2Proof.Machine

namespace Sys2Proof
open Machine

/-- Settles O55: a change of `armed` is one of the effects that write it, and `ARM`, `ARM_CLR`, `INIT` and the last emit
tick always write it. -/
theorem armedIsSetByArmingAndClearedAtTheEnd : Obligations.ArmedIsSetByArmingAndClearedAtTheEnd := by
  intro i s t h
  refine ⟨fun hs ht => ?_, fun hs ht => ?_, fun hi => exec_arm_armed hi h, ?_, ?_⟩
  · obtain hkept | ⟨-, harming⟩ | ⟨hcleared, -⟩ := (exec_effect h).armed_cases
    · simp [hkept, hs] at ht
    · exact harming
    · simp [hcleared] at ht
  · obtain hkept | ⟨hset, -⟩ | ⟨-, hend⟩ := (exec_effect h).armed_cases
    · simp [hkept, hs] at ht
    · simp [hset] at ht
    · exact hend
  · rintro rfl
    exact exec_init_armed h
  · rintro rfl hshift hcount
    rw [exec_tickEmit_eq h]
    exact if_pos ⟨hshift, hcount⟩

end Sys2Proof
end

section
/-! The decoder and the encoder of the command port (R86 to R89, R93): a word is its fields, each direction of the round
trip, and the reserved encodings. -/

namespace Sys2Proof

/-! ## A word is its fields -/

/-- A word with `ZERO` = 0000 is the command word of its `OP` and its `ARG` (R86). -/
theorem commandWord_fields {w : CmdWord} (h : zeroField w = 0#4) : commandWord (opField w) (argField w) = w := by
  apply BitVec.eq_of_getLsbD_eq
  intro k hk
  have hzero (j : Nat) (hj : j < 4) : w.getLsbD (8 + j) = false := by
    simpa [zeroField, hj] using congrArg (BitVec.getLsbD · j) h
  obtain hk8 | hk12 | hk16 : k < 8 ∨ (8 ≤ k ∧ k < 12) ∨ (12 ≤ k ∧ k < 16) := by omega
  · have hlow : k < 12 ∧ k < 16 := by omega
    simp [commandWord, argField, hk8, hlow]
  · obtain ⟨j, rfl⟩ := Nat.exists_eq_add_of_le hk12.1
    have hbits : 8 + j < 12 ∧ 8 + j < 16 ∧ j < 4 := by omega
    simpa [commandWord, argField, hbits] using hzero j hbits.2.2
  · obtain ⟨j, rfl⟩ := Nat.exists_eq_add_of_le hk16.1
    have hbits : 12 + j < 16 ∧ ¬ 12 + j < 12 ∧ ¬ 12 + j < 8 ∧ j < 4 := by omega
    simp [commandWord, argField, opField, hbits]

/-- A payload word with bits 15:8 zero is the payload word of its byte (R87). -/
theorem payloadWord_argField {w : CmdWord} (h : payloadHigh w = 0#8) : payloadWord (argField w) = w := by
  apply BitVec.eq_of_getLsbD_eq
  intro k hk
  by_cases hk8 : k < 8
  · have hk16 : k < 16 := by omega
    simp [payloadWord, argField, hk8, hk16]
  · obtain ⟨j, rfl⟩ := Nat.exists_eq_add_of_le (Nat.le_of_not_lt hk8)
    have hj : j < 8 := by omega
    have hbit : w.getLsbD (8 + j) = false := by simpa [payloadHigh, hj] using congrArg (BitVec.getLsbD · j) h
    simp [payloadWord, argField, hbit]

theorem map_payloadWord_argField {ws : List CmdWord} (h : ∀ w ∈ ws, payloadHigh w = 0#8) :
    (ws.map argField).map payloadWord = ws := by
  rw [List.map_map]
  exact (List.map_congr_left fun w hw => payloadWord_argField (h w hw)).trans (List.map_id _)

/-! ## Decoding an encoding -/

/-- The payload of a string command reads back as the bytes that are used (R87, R94). -/
theorem readPayload_stringBytes {bs : List Byte} {len : Nat} (h : len ≤ bs.length) (rest : List CmdWord) :
    readPayload len ((bs.take len).map payloadWord ++ rest) = .got (bs.take len) rest := by
  have hread := readPayload_payloadWords (bs.take len) rest
  rwa [List.length_take_of_le h] at hread

/-- A length of at most 255 is the value of its `ARG` (R93). -/
theorem toNat_lengthArg {len : Nat} (h : len ≤ 255) : (BitVec.ofNat 8 len).toNat = len := by
  rw [BitVec.toNat_ofNat]
  omega

theorem decode_tryPutString {bs : List Byte} {len : Nat} (hlen : len ≤ bs.length) (h255 : len ≤ 255)
    (rest : List CmdWord) :
    decode (stringWords 3 bs len ++ rest) = .got (.tryPutString (bs.take len) len) rest := by
  simp [stringWords, decode, toNat_lengthArg h255, readPayload_stringBytes hlen, withPayload, -List.map_take]

theorem decode_putString {bs : List Byte} {len : Nat} (hlen : len ≤ bs.length) (h255 : len ≤ 255)
    (rest : List CmdWord) :
    decode (stringWords 4 bs len ++ rest) = .got (.putString (bs.take len) len) rest := by
  simp [stringWords, decode, toNat_lengthArg h255, readPayload_stringBytes hlen, withPayload, -List.map_take]

/-- Only what the port can carry has words (R92, R93). -/
theorem encode_eq_some {i : Instr} {ws : List CmdWord} (h : encode i = some ws) : i.fitsPort = true := by
  unfold encode at h
  split at h
  · assumption
  · cases h

/-- The length of a string that the port can carry (R93, R94). -/
theorem fitsPort_string {bs : List Byte} {len : Nat} :
    ((Instr.tryPutString bs len).fitsPort = true ↔ len ≤ bs.length ∧ len ≤ 255) ∧
    ((Instr.putString bs len).fitsPort = true ↔ len ≤ bs.length ∧ len ≤ 255) := by
  simp [Instr.fitsPort]

/-- Decoding the words of an instruction of the port gives the instruction, its string cut to the bytes used. -/
theorem decode_encode {i : Instr} {ws : List CmdWord} (h : encode i = some ws) (rest : List CmdWord) :
    decode (ws ++ rest) = .got (trimmed i) rest := by
  have hfits := encode_eq_some h
  unfold encode at h
  rw [if_pos hfits] at h
  cases i with
  | init => cases h; simp [decode, trimmed]
  | tryPut b => cases h; simp [decode, trimmed]
  | put b => cases h; simp [decode, trimmed]
  | tryPutString bs len =>
    cases h
    obtain ⟨hlen, h255⟩ := fitsPort_string.1.1 hfits
    exact decode_tryPutString hlen h255 rest
  | putString bs len =>
    cases h
    obtain ⟨hlen, h255⟩ := fitsPort_string.2.1 hfits
    exact decode_putString hlen h255 rest
  | _ => cases h

/-! ## Encoding what was decoded -/

/-- A string command that is read: its payload was read, and makes it. -/
theorem withPayload_got {make : List Byte → Instr} {f : Fetched (List Byte)} {i : Instr} {rest : List CmdWord}
    (h : withPayload make f = .got i rest) : ∃ bs, f = .got bs rest ∧ i = make bs := by
  cases f with
  | got bs r => cases h; exact ⟨bs, rfl, rfl⟩
  | incomplete => cases h
  | reject why => cases h

/-- Everything the decoder can read (R88): a command word with `ZERO` = 0000 and one of the five values of `OP`. -/
theorem decode_got {w : CmdWord} {ws rest : List CmdWord} {i : Instr} (h : decode (w :: ws) = .got i rest) :
    zeroField w = 0#4 ∧
      ((opField w = 0#4 ∧ argField w = 0#8 ∧ i = .init ∧ rest = ws) ∨
       (opField w = 1#4 ∧ i = .tryPut (argField w) ∧ rest = ws) ∨
       (opField w = 2#4 ∧ i = .put (argField w) ∧ rest = ws) ∨
       (∃ bs, opField w = 3#4 ∧ readPayload (argField w).toNat ws = .got bs rest ∧
         i = .tryPutString bs (argField w).toNat) ∨
       (∃ bs, opField w = 4#4 ∧ readPayload (argField w).toNat ws = .got bs rest ∧
         i = .putString bs (argField w).toNat)) := by
  have op_eq {v : BitVec 4} (hv : (opField w).toNat = v.toNat) : opField w = v := BitVec.eq_of_toNat_eq hv
  rw [decode] at h
  split at h
  · next hzero =>
    refine ⟨hzero, ?_⟩
    split at h
    · next hop =>
      split at h
      · next harg => cases h; exact .inl ⟨op_eq (v := 0#4) hop, harg, rfl, rfl⟩
      · cases h
    · next hop => cases h; exact .inr (.inl ⟨op_eq (v := 1#4) hop, rfl, rfl⟩)
    · next hop => cases h; exact .inr (.inr (.inl ⟨op_eq (v := 2#4) hop, rfl, rfl⟩))
    · next hop =>
      obtain ⟨bs, hread, rfl⟩ := withPayload_got h
      exact .inr (.inr (.inr (.inl ⟨bs, op_eq (v := 3#4) hop, hread, rfl⟩)))
    · next hop =>
      obtain ⟨bs, hread, rfl⟩ := withPayload_got h
      exact .inr (.inr (.inr (.inr ⟨bs, op_eq (v := 4#4) hop, hread, rfl⟩)))
    · cases h
  · cases h

/-- A payload that is read is the payload words of its bytes, as many as the `ARG` announces. -/
theorem readPayload_words {arg : Byte} {ws rest : List CmdWord} {bs : List Byte}
    (h : readPayload arg.toNat ws = .got bs rest) :
    bs.length = arg.toNat ∧ ws = (bs.take arg.toNat).map payloadWord ++ rest := by
  obtain ⟨hlen, front, rfl, -, hhigh, rfl⟩ := readPayload_got h
  exact ⟨hlen, by rw [← hlen, List.take_length, map_payloadWord_argField hhigh]⟩

/-- The words of a string command from its command word and its payload. -/
theorem stringWords_of_read {w : CmdWord} {op : BitVec 4} {ws rest : List CmdWord} {bs : List Byte}
    (hw : commandWord op (argField w) = w) (h : readPayload (argField w).toNat ws = .got bs rest) :
    w :: ws = stringWords op bs (argField w).toNat ++ rest := by
  obtain ⟨-, hws⟩ := readPayload_words h
  rw [stringWords, BitVec.ofNat_toNat, BitVec.setWidth_eq, hw, List.cons_append, ← hws]

/-- The bytes read are within what the port can carry (R93). -/
theorem readPayload_fits {arg : Byte} {ws rest : List CmdWord} {bs : List Byte}
    (h : readPayload arg.toNat ws = .got bs rest) : arg.toNat ≤ bs.length ∧ arg.toNat ≤ 255 := by
  have hlt := arg.isLt
  obtain ⟨hlen, -⟩ := readPayload_words h
  omega

/-- What the decoder accepts is the encoding of what it reads, followed by what it leaves. -/
theorem encode_of_decode {ws rest : List CmdWord} {i : Instr} (h : decode ws = .got i rest) :
    ∃ front, encode i = some front ∧ ws = front ++ rest := by
  cases ws with
  | nil => cases h
  | cons w ws =>
    obtain ⟨hzero, hread⟩ := decode_got h
    have hw := commandWord_fields hzero
    obtain ⟨hop, harg, rfl, rfl⟩ | ⟨hop, rfl, rfl⟩ | ⟨hop, rfl, rfl⟩ | ⟨bs, hop, hbs, rfl⟩ | ⟨bs, hop, hbs, rfl⟩ := hread
    · exact ⟨_, rfl, by rw [hop, harg] at hw; rw [← hw]; rfl⟩
    · exact ⟨_, rfl, by rw [hop] at hw; rw [← hw]; simp⟩
    · exact ⟨_, rfl, by rw [hop] at hw; rw [← hw]; simp⟩
    · exact ⟨_, if_pos (fitsPort_string.1.2 (readPayload_fits hbs)), stringWords_of_read (by rwa [hop] at hw) hbs⟩
    · exact ⟨_, if_pos (fitsPort_string.2.2 (readPayload_fits hbs)), stringWords_of_read (by rwa [hop] at hw) hbs⟩

/-! ## Reserved encodings -/

/-- A payload with a bad word among those that have arrived is refused, whatever has not arrived (R89, log entry 10). -/
theorem readPayload_reject {n k : Nat} {ws : List CmdWord} {v : CmdWord} (hk : k < n) (hv : ws[k]? = some v)
    (hbad : payloadHigh v ≠ 0#8) : readPayload n ws = .reject .payloadHigh := by
  induction k generalizing n ws with
  | zero =>
    obtain ⟨n, rfl⟩ := Nat.exists_eq_succ_of_ne_zero (Nat.ne_zero_of_lt hk)
    cases ws with
    | nil => cases hv
    | cons w ws =>
      obtain rfl : w = v := by simpa using hv
      simp [readPayload, hbad]
  | succ k ih =>
    obtain ⟨n, rfl⟩ := Nat.exists_eq_succ_of_ne_zero (Nat.ne_zero_of_lt hk)
    cases ws with
    | nil => cases hv
    | cons w ws =>
      have hrest := ih (Nat.lt_of_succ_lt_succ hk) (by simpa using hv)
      by_cases hw : payloadHigh w = 0#8
      · simp [readPayload, hw, hrest]
      · simp [readPayload, hw]

/-- The decoder rejects every reserved encoding (R89). -/
theorem decode_reserved {w : CmdWord} {ws : List CmdWord}
    (h : 5 ≤ (opField w).toNat ∨ zeroField w ≠ 0#4 ∨ (opField w = 0#4 ∧ argField w ≠ 0#8) ∨
      ((opField w = 3#4 ∨ opField w = 4#4) ∧
        ∃ k < (argField w).toNat, ∃ v, ws[k]? = some v ∧ payloadHigh v ≠ 0#8)) :
    ∃ why, decode (w :: ws) = .reject why := by
  by_cases hzero : zeroField w = 0#4
  · obtain hop | hbad | ⟨hop, harg⟩ | ⟨hop, k, hk, v, hv, hbad⟩ := h
    · obtain ⟨m, hm⟩ := Nat.exists_eq_add_of_le' hop
      exact ⟨.reservedOp, by simp [decode, hzero, hm]⟩
    · exact absurd hzero hbad
    · exact ⟨.initArgument, by simp [decode, hzero, hop, harg]⟩
    · have hread := readPayload_reject hk hv hbad
      obtain hop | hop := hop
      · exact ⟨.payloadHigh, by simp [decode, hzero, hop, hread, withPayload]⟩
      · exact ⟨.payloadHigh, by simp [decode, hzero, hop, hread, withPayload]⟩
  · exact ⟨.zeroField, by simp [decode, hzero]⟩

end Sys2Proof

namespace Sys2Proof
open Machine

/-- Settles O2, one instruction of the port after the other. -/
theorem decodeEncodeGivesTheCommandBack : Obligations.DecodeEncodeGivesTheCommandBack := fun _ _ rest h =>
  decode_encode h rest

/-- Settles O3: the fields that the decoder reads make up the words. -/
theorem decodedWordsAreTheEncoding : Obligations.DecodedWordsAreTheEncoding := fun _ _ _ => encode_of_decode

/-- Settles O1: each written-out word, decoded. -/
theorem writtenOutWordsDecode : Obligations.WrittenOutWordsDecode := by
  unfold Obligations.WrittenOutWordsDecode
  decide

end Sys2Proof
end

section
/-! The ring as a queue (R25, R44, R54): the queued bytes after a store and after a pop, and how an operation moves the
storage and the ring registers. -/

namespace Sys2Proof.Machine

/-- Occupied slots of one ring are distinct (R54). -/
theorem ringSlot_ne {n j k : Nat} (rd : Nat) (hjk : j < k) (hk : k < n) : (rd + j) % n ≠ (rd + k) % n := fun h =>
  hjk.ne ((Nat.ModEq.add_left_cancel' rd h).eq_of_lt_of_lt (hjk.trans hk) hk)

/-- The slot after `rd` counts from `rd` as one more (R54). -/
theorem ringSlot_succ (n rd k : Nat) : ((rd + 1) % n + k) % n = (rd + (k + 1)) % n := by
  rw [Nat.mod_add_mod, Nat.add_assoc, Nat.add_comm 1 k]

/-- The index relation of the ring (R25, R44). -/
structure State.RingOk (s : State) : Prop where
  rd_lt : s.rd < s.cfg.capacity
  wr_eq : s.wr = (s.rd + s.count) % s.cfg.capacity

namespace State.RingOk
variable {s : State}

theorem wr_lt (h : s.RingOk) : s.wr < s.cfg.capacity :=
  h.wr_eq ▸ Nat.mod_lt _ (Nat.zero_lt_of_lt h.rd_lt)

theorem pushed (h : s.RingOk) (b : Byte) : (s.pushed b).RingOk where
  rd_lt := h.rd_lt
  wr_eq := by
    change (s.wr + 1) % _ = (s.rd + (s.count + 1)) % _
    rw [h.wr_eq, Nat.mod_add_mod, Nat.add_assoc]
    rfl

theorem popped (h : s.RingOk) (hc : s.count ≠ 0) : s.popped.RingOk where
  rd_lt := Nat.mod_lt _ (Nat.zero_lt_of_lt h.rd_lt)
  wr_eq := by
    change s.wr = ((s.rd + 1) % s.cfg.capacity + (s.count - 1)) % s.cfg.capacity
    rw [ringSlot_succ, Nat.sub_add_cancel (Nat.one_le_iff_ne_zero.2 hc), h.wr_eq]

/-- A store appends its byte to the queued bytes (R44, R113). -/
theorem queued_pushed (h : s.RingOk) (hc : s.count < s.cfg.capacity) (b : Byte) :
    (s.pushed b).queued = s.queued ++ [b] := by
  have hold : ∀ k < s.count, (s.buf.write s.wr b).slot ((s.rd + k) % s.cfg.capacity) =
      s.buf.slot ((s.rd + k) % s.cfg.capacity) := fun k hk => by
    rw [Memory.slot_write, h.wr_eq, if_neg (ringSlot_ne s.rd hk hc)]
  have hnew : (s.buf.write s.wr b).slot ((s.rd + s.count) % s.cfg.capacity) = b := by
    rw [Memory.slot_write, h.wr_eq, if_pos rfl]
  simp only [State.queued, State.pushed, List.range_succ, List.map_append, List.map_cons, List.map_nil, hnew]
  rw [List.map_congr_left fun k hk => hold k (List.mem_range.1 hk)]

end State.RingOk

/-- A pop takes the first of the queued bytes, which lies in the slot `rd` (R44, R112). -/
theorem State.queued_eq_cons {s : State} (hr : s.rd < s.cfg.capacity) (hc : s.count ≠ 0) :
    s.queued = s.buf.slot s.rd :: s.popped.queued := by
  obtain ⟨m, hm⟩ := Nat.exists_eq_succ_of_ne_zero hc
  simp only [State.queued, State.popped, hm, Nat.succ_eq_add_one, Nat.add_sub_cancel, List.range_succ_eq_map,
    List.map_cons, List.map_map, Nat.add_zero, Nat.mod_eq_of_lt hr, Function.comp_def, ringSlot_succ]

theorem State.queued_of_empty {s : State} (hc : s.count = 0) : s.queued = [] := by
  simp [State.queued, hc]

/-- Everything `DEQUEUE` by itself can do when it answers next (R112). -/
theorem exec_dequeue_eq_next {s t : State} :
    exec .dequeue s = .next t ↔
      s.count ≠ 0 ∧ s.rd < s.cfg.capacity ∧ t = s.popped.report (.byte (s.buf.slot s.rd)) := by
  change andThen (popByte s) _ = _ ↔ _
  rw [popByte_eq]
  split
  · next hc => simp [hc]
  · next hc =>
    split
    · next hr => simp [hc, hr, eq_comm]
    · next hr => simp [hr]

/-- An operation of the producer is not `INIT`. -/
theorem ne_init_of_not_mem {i : Instr} (hi : i ∉ notProducers) : i ≠ .init := fun h => hi (h ▸ by decide)

/-- A slot other than the one at `wr` keeps its byte, and that one too where nothing is stored (R21). -/
theorem Effect.buf_read {i : Instr} {s t : State} (h : Effect i s t) {a : Nat}
    (ha : ¬ (a = s.wr ∧ t.count = s.count + 1)) : t.buf.read a = s.buf.read a := by
  cases h with
  | stored b =>
    have hne : a ≠ s.wr := fun heq => ha ⟨heq, rfl⟩
    exact Memory.read_write_other s.buf b hne
  | init => rfl
  | quiet => rfl
  | arming => rfl
  | popped => rfl
  | emit => rfl
  | load => rfl
  | nop => rfl

/-- How an effect moves the ring registers (R22, R23, R24, R54). -/
theorem Effect.ring_cases {i : Instr} {s t : State} (h : Effect i s t) :
    (i = .init ∧ t.rd = 0 ∧ t.wr = 0 ∧ t.count = 0) ∨
    (i ≠ .init ∧
      ((t.rd = s.rd ∧ t.wr = s.wr ∧ t.count = s.count) ∨
       (t.rd = s.rd ∧ t.wr = (s.wr + 1) % s.cfg.capacity ∧ t.count = s.count + 1) ∨
       (t.rd = (s.rd + 1) % s.cfg.capacity ∧ t.wr = s.wr ∧ s.count = t.count + 1))) := by
  have one_fewer (hc : s.count ≠ 0) : s.count = s.count - 1 + 1 :=
    (Nat.sub_add_cancel (Nat.one_le_iff_ne_zero.2 hc)).symm
  cases h with
  | init hi => exact .inl ⟨hi, rfl, rfl, rfl⟩
  | quiet _ _ _ hi => exact .inr ⟨ne_init_of_not_mem hi, .inl ⟨rfl, rfl, rfl⟩⟩
  | stored _ _ _ hi => exact .inr ⟨ne_init_of_not_mem hi, .inr (.inl ⟨rfl, rfl, rfl⟩)⟩
  | arming _ _ _ _ _ hi => exact .inr ⟨ne_init_of_not_mem hi, .inl ⟨rfl, rfl, rfl⟩⟩
  | popped hi hc => exact .inr ⟨by simp [hi], .inr (.inr ⟨rfl, rfl, one_fewer hc⟩)⟩
  | emit hi => exact .inr ⟨by rintro rfl; simp at hi, .inl ⟨rfl, rfl, rfl⟩⟩
  | load hi _ _ hc => exact .inr ⟨by rintro rfl; simp at hi, .inr (.inr ⟨rfl, rfl, one_fewer hc⟩)⟩
  | nop hi => exact .inr ⟨by rintro rfl; simp at hi, .inl ⟨rfl, rfl, rfl⟩⟩

end Sys2Proof.Machine

namespace Sys2Proof
open Machine

/-- Settles O14, from the queued bytes of the pushed and of the popped state. -/
theorem queueIsFirstInFirstOut : Obligations.QueueIsFirstInFirstOut := by
  intro s t hrd _ hwr
  refine ⟨fun b h => ?_, fun h => ?_⟩
  · obtain ⟨hc, -, rfl⟩ := storeByte_eq_next.1 h
    exact State.RingOk.queued_pushed ⟨hrd, hwr⟩ hc b
  · obtain ⟨hc, hr, rfl⟩ := exec_dequeue_eq_next.1 h
    exact ⟨_, State.queued_eq_cons hr hc, rfl⟩

/-- Settles O15: among the effects of an operation only the store writes the storage, at `wr`. -/
theorem memoryChangesOnlyAtWr : Obligations.MemoryChangesOnlyAtWr := fun _ _ _ h _ => (exec_effect h).buf_read

/-- Settles O16, one effect of an operation after the other. -/
theorem ringRegistersMoveTogether : Obligations.RingRegistersMoveTogether := fun _ _ _ h => (exec_effect h).ring_cases

/-- Settles O13: the pop on an empty queue faults, and on any other answers the popped state. -/
theorem dequeuePopsTheSlotAtRd : Obligations.DequeuePopsTheSlotAtRd := fun s =>
  ⟨fun hc => by simp [exec, execDequeue, popByte_eq, hc],
    fun hc hr => exec_dequeue_eq_next.2 ⟨hc.ne', hr, rfl⟩⟩

end Sys2Proof
end

section
/-! Who writes the parameters, `ie`, the pin, the shift register and the records (10_state.md): what an operation's effect
does to each field, and the four forms of the TICK. -/

namespace Sys2Proof.Machine
variable {i : Instr} {s t : State}

theorem Effect.cfg_eq (h : Effect i s t) : t.cfg = s.cfg := by cases h <;> rfl

theorem Effect.ie_eq (h : Effect i s t) : t.ie = s.ie := by cases h <;> rfl

/-- An effect leaves the pin, or it is `INIT`, or an emit tick (R34). -/
theorem Effect.tx_cases (h : Effect i s t) :
    t.tx = s.tx ∨ (i = .init ∧ t.tx = true) ∨
    ((i = .tick ∨ i = .tickEmit) ∧ s.shift ≠ 0#12 ∧ t.tx = s.shift.getLsbD 0) := by
  cases h with
  | init hi => exact .inr (.inl ⟨hi, rfl⟩)
  | emit hi _ hs => exact .inr (.inr ⟨hi, hs, rfl⟩)
  | quiet => exact .inl rfl
  | stored => exact .inl rfl
  | arming => exact .inl rfl
  | popped => exact .inl rfl
  | load => exact .inl rfl
  | nop => exact .inl rfl

/-- An effect leaves the shift register, or it is `INIT`, an emit tick or a load tick (R27). -/
theorem Effect.shift_cases (h : Effect i s t) :
    t.shift = s.shift ∨ (i = .init ∧ t.shift = 0#12) ∨
    ((i = .tick ∨ i = .tickEmit) ∧ s.shift ≠ 0#12 ∧ t.shift = s.shift >>> 1) ∨
    ((i = .tick ∨ i = .tickLoad) ∧ s.shift = 0#12 ∧ s.count ≠ 0 ∧
      t.shift = frame s.cfg.parity (s.buf.slot s.rd)) := by
  cases h with
  | init hi => exact .inr (.inl ⟨hi, rfl⟩)
  | emit hi _ hs => exact .inr (.inr (.inl ⟨hi, hs, rfl⟩))
  | load hi _ hs hc => exact .inr (.inr (.inr ⟨hi, hs, hc, rfl⟩))
  | quiet => exact .inl rfl
  | stored => exact .inl rfl
  | arming => exact .inl rfl
  | popped => exact .inl rfl
  | nop => exact .inl rfl

/-- What is neither `INIT` nor a TICK leaves the frame in flight, the pin and the trace (R27, R34). -/
theorem Effect.frame_private (h : Effect i s t) (hi : i ∉ [Instr.init, .tick, .tickEmit, .tickLoad, .tickNop]) :
    t.shift = s.shift ∧ t.tx = s.tx ∧ t.trace = s.trace := by
  cases h with
  | init hinit => exact absurd hinit (by rintro rfl; simp at hi)
  | emit htick => exact absurd htick (by rintro (rfl | rfl) <;> simp at hi)
  | load htick => exact absurd htick (by rintro (rfl | rfl) <;> simp at hi)
  | nop htick => exact absurd htick (by rintro (rfl | rfl) <;> simp at hi)
  | quiet => exact ⟨rfl, rfl, rfl⟩
  | stored => exact ⟨rfl, rfl, rfl⟩
  | arming => exact ⟨rfl, rfl, rfl⟩
  | popped => exact ⟨rfl, rfl, rfl⟩

/-- Everything a form of the TICK can do when it answers next (R130): it was deliverable, and the arm that the register
and the queue select ran between entry and return. -/
theorem tick_next (hi : i ∈ [Instr.tick, .tickEmit, .tickLoad, .tickNop]) (h : exec i s = .next t) :
    s.tickEnabled = true ∧
      ((s.shift ≠ 0#12 ∧ t = s.enterHandler.emitted.leaveHandler) ∨
       (s.shift = 0#12 ∧ s.count ≠ 0 ∧ s.rd < s.cfg.capacity ∧ t = s.enterHandler.loaded.leaveHandler) ∨
       (s.shift = 0#12 ∧ s.count = 0 ∧ t = s.enterHandler.leaveHandler)) := by
  have hsub : [Instr.tick, .tickEmit, .tickLoad, .tickNop] ⊆ notProducers := by decide
  have not_producers : ¬ i ∉ notProducers := not_not.2 (hsub hi)
  cases exec_effect h with
  | emit _ he hs => exact ⟨he, .inl ⟨hs, rfl⟩⟩
  | load _ he hs hc hr => exact ⟨he, .inr (.inl ⟨hs, hc, hr, rfl⟩)⟩
  | nop _ he hs hc => exact ⟨he, .inr (.inr ⟨hs, hc, rfl⟩)⟩
  | init hinit => simp [hinit] at hi
  | popped hdequeue => simp [hdequeue] at hi
  | quiet _ _ _ hp => exact absurd hp not_producers
  | stored _ _ _ hp => exact absurd hp not_producers
  | arming _ _ _ _ _ hp => exact absurd hp not_producers

/-- With no frame in flight and an empty queue the idle arm is the selected one, and it completes (R133). -/
theorem exec_tickNop_next (h : s.tickEnabled = true) (hs : s.shift = 0#12) (hc : s.count = 0) :
    exec .tickNop s = .next s.enterHandler.leaveHandler :=
  have selected : decodeSelector s.selector = .tickNop := by
    rw [decodeSelector_selector, if_neg (not_not.2 hs), if_neg (not_not.2 hc)]
  takeTick_eq_next.2 ⟨h, selected, _, rfl, rfl⟩

/-- A TICK with a frame in flight is an emit tick (R130). -/
theorem exec_tick_emit (hs : s.shift ≠ 0#12) : exec .tick s = exec .tickEmit s := if_pos hs

/-- A TICK of an idle engine with a byte queued is a load tick (R130). -/
theorem exec_tick_load (hs : s.shift = 0#12) (hc : s.count ≠ 0) : exec .tick s = exec .tickLoad s :=
  (if_neg (not_not.2 hs)).trans (if_pos hc)

/-- A TICK of an idle, empty engine takes the idle arm (R130). -/
theorem exec_tick_nop (hs : s.shift = 0#12) (hc : s.count = 0) : exec .tick s = exec .tickNop s :=
  (if_neg (not_not.2 hs)).trans (if_neg (not_not.2 hc))

/-- A deliverable TICK completes (R130). -/
theorem exec_tick_completes (h : s.tickEnabled = true) (hr : s.rd < s.cfg.capacity) : ∃ t, exec .tick s = .next t := by
  by_cases hs : s.shift = 0#12
  · by_cases hc : s.count = 0
    · exact ⟨_, (exec_tick_nop hs hc).trans (exec_tickNop_next h hs hc)⟩
    · exact ⟨_, (exec_tick_load hs hc).trans (exec_tickLoad_next h hs hc hr)⟩
  · exact ⟨_, (exec_tick_emit hs).trans (exec_tickEmit_next h hs)⟩

/-- An arm that the selector does not name is refused where a TICK is deliverable (log entry 8). -/
theorem takeTick_other {which : Instr} (body : State → Res State) (h : s.tickEnabled = true)
    (hw : decodeSelector s.selector ≠ which) : takeTick which body s = .refused .armNotSelected := by
  rw [takeTick, if_pos h, if_neg hw]

end Sys2Proof.Machine

namespace Sys2Proof
open Machine

/-- Settles O17, one clause for each arm that the register and the queue select. -/
theorem tickRunsTheSelectedArm : Obligations.TickRunsTheSelectedArm := by
  intro s h
  refine ⟨fun hs => ?_, fun hs hc hr => ?_, fun hs hc => ?_⟩
  · have selected : decodeSelector s.selector = .tickEmit := by rw [decodeSelector_selector, if_pos hs]
    have hemit := exec_tickEmit_next h hs
    exact ⟨selected, _, (exec_tick_emit hs).trans hemit, hemit, takeTick_other _ h (by simp [selected]),
      takeTick_other _ h (by simp [selected])⟩
  · have selected : decodeSelector s.selector = .tickLoad := by simp [decodeSelector_selector, hs, hc]
    have hload := exec_tickLoad_next h hs hc hr
    exact ⟨selected, _, (exec_tick_load hs hc).trans hload, hload, takeTick_other _ h (by simp [selected]),
      takeTick_other _ h (by simp [selected])⟩
  · have selected : decodeSelector s.selector = .tickNop := by simp [decodeSelector_selector, hs, hc]
    have hnop := exec_tickNop_next h hs hc
    exact ⟨selected, _, (exec_tick_nop hs hc).trans hnop, hnop, takeTick_other _ h (by simp [selected]),
      takeTick_other _ h (by simp [selected])⟩

/-- Settles O20: the idle arm between entry and return. -/
theorem idleTickChangesNothing : Obligations.IdleTickChangesNothing := fun _ => exec_tickNop_next

/-- Settles O21: each arm leaves the fields that entry and return do not write. -/
theorem tickEntryAndReturn : Obligations.TickEntryAndReturn := by
  intro i s t hi h
  obtain ⟨he, ⟨-, rfl⟩ | ⟨-, -, -, rfl⟩ | ⟨-, -, rfl⟩⟩ := tick_next hi h
  · exact ⟨he, rfl, rfl, rfl, rfl, rfl, rfl, rfl, rfl, rfl, rfl, rfl, rfl⟩
  · exact ⟨he, rfl, rfl, rfl, rfl, rfl, rfl, rfl, rfl, rfl, rfl, rfl, rfl⟩
  · exact ⟨he, rfl, rfl, rfl, rfl, rfl, rfl, rfl, rfl, rfl, rfl, rfl, rfl⟩

/-- Settles O56: among the effects of an operation only `INIT` and the emit tick write the pin. -/
theorem pinIsWrittenByEmitTicksAndInit : Obligations.PinIsWrittenByEmitTicksAndInit := fun _ _ _ h =>
  (exec_effect h).tx_cases

/-- Settles O57: among the effects of an operation only `INIT`, the emit tick and the load tick write the register. -/
theorem frameIsPrivateToTheHandler : Obligations.FrameIsPrivateToTheHandler := fun _ _ _ h =>
  ⟨(exec_effect h).frame_private, (exec_effect h).shift_cases⟩

end Sys2Proof
end

section
/-! What a step of the machine can do when it goes on: it only takes something from outside, or an agent performs one
operation (R60, R197). -/

namespace Sys2Proof.Machine

/-- The state after the fetch of a step: the events `es` and the words `ws` are left, and `n` free events were drawn. -/
def State.fetched (es : List Event) (n : Nat) (ws : List CmdWord) (s : State) : State :=
  { s with sched := es, drawn := n, cmd := ws }

/-- The operation `i` is the one that the agent of the next event performs in `s`, and it leaves the words `ws`: a
deliverable TICK, the command that the words of the port make up, or the command in progress. -/
inductive Turn (s : State) : Instr → List CmdWord → Prop
  | tick (he : (nextEvent s).1 = .handler) (hb : s.booted = true) (ht : s.tickEnabled = true) : Turn s .tick s.cmd
  | issued {i : Instr} {rest : List CmdWord} (he : (nextEvent s).1 = .producer) (hp : s.prod = .idle)
      (hd : decode s.cmd = .got i rest) (hb : s.booted = true ∨ i = .init) : Turn s i rest
  | running {i : Instr} {pos : Pos} (he : (nextEvent s).1 = .producer) (hp : s.prod = .running i pos)
      (hb : s.booted = true) (hi : hasPositions i = true) : Turn s i s.cmd

/-- Everything a step can do to the state when it goes on. -/
inductive StepEffect (s t : State) : Prop
  /-- the environment moved, or the agent had nothing to do -/
  | outside (es : List Event) (n : Nat) (ws : List CmdWord) (pend v : Bool) (hinit : s.issuesInit = false)
      (hie : v = s.ie ∨ (nextEvent s).1 = .setIe v)
      (ht : t = { s.fetched es n ws with tickPending := pend, ie := v })
  /-- an agent performed an operation -/
  | operation (es : List Event) (n : Nat) (i : Instr) (ws : List CmdWord) (turn : Turn s i ws)
      (h : exec i (s.fetched es n ws) = .next t)

/-- The next step issues `INIT` when the producer moves next, is idle, and reads it from the port (R160). -/
theorem issuesInit_iff (s : State) :
    s.issuesInit = true ↔
      (nextEvent s).1 = .producer ∧ s.prod = .idle ∧ ∃ rest, decode s.cmd = .got .init rest := by
  obtain ⟨es, n, he⟩ := nextEvent_state s
  unfold State.issuesInit
  rw [he]
  constructor
  · intro h
    split at h
    · next rest hev hp hd => exact ⟨hev, hp, rest, hd⟩
    · cases h
  · rintro ⟨hev, hp, rest, hd⟩
    simp only [hev, hp, hd]

/-- The operation of a step is `INIT` exactly when the step issues it. -/
theorem Turn.issuesInit_iff {s : State} {i : Instr} {ws : List CmdWord} (h : Turn s i ws) :
    s.issuesInit = true ↔ i = .init := by
  rw [Machine.issuesInit_iff]
  cases h with
  | tick he => simp [he]
  | issued he hp hd => simp [he, hp, hd]
  | running he hp _ hi =>
    have hne : i ≠ .init := by rintro rfl; simp [hasPositions] at hi
    simp [hp, hne]

/-- The inversion of `step`. -/
theorem step_effect {s t : State} (h : step s = .next t) : StepEffect s t := by
  obtain ⟨es, n, hfetch⟩ := nextEvent_state s
  have not_init (hev : (nextEvent s).1 ≠ .producer) : s.issuesInit = false := by
    rw [Bool.eq_false_iff, ne_eq, issuesInit_iff]
    exact fun hinit => hev hinit.1
  rw [step, hfetch] at h
  cases hev : (nextEvent s).1 with
  | producer =>
    rw [hev] at h
    obtain ⟨-, hd, rfl⟩ | ⟨i, rest, hp, hd, hb, h⟩ | ⟨i, pos, hp, hb, hi, h⟩ := producerTurn_next h
    · refine .outside es n s.cmd s.tickPending s.ie ?_ (.inl rfl) rfl
      change decode s.cmd = _ at hd
      rw [Bool.eq_false_iff, ne_eq, issuesInit_iff]
      simp [hd]
    · exact .operation es n i rest (.issued hev hp hd hb) h
    · exact .operation es n i s.cmd (.running hev hp hb hi) h
  | handler =>
    have hinit := not_init (by simp [hev])
    rw [hev] at h
    obtain ⟨ht, hb, h⟩ | ⟨-, rfl⟩ := handlerTurn_next h
    · exact .operation es n .tick s.cmd (.tick hev hb ht) h
    · exact .outside es n s.cmd s.tickPending s.ie hinit (.inl rfl) rfl
  | period =>
    have hinit := not_init (by simp [hev])
    rw [hev] at h
    cases h
    exact .outside es n s.cmd true s.ie hinit (.inl rfl) rfl
  | setIe v =>
    have hinit := not_init (by simp [hev])
    rw [hev] at h
    cases h
    exact .outside es n s.cmd s.tickPending v hinit (.inr hev) rfl
  | deliver ws =>
    have hinit := not_init (by simp [hev])
    rw [hev] at h
    cases h
    exact .outside es n (s.cmd ++ ws) s.tickPending s.ie hinit (.inl rfl) rfl

/-- Where the producer does not move, the operation is a TICK. -/
theorem Turn.eq_tick {s : State} {i : Instr} {ws : List CmdWord} (h : Turn s i ws)
    (hev : (nextEvent s).1 ≠ .producer) : i = .tick := by
  cases h with
  | tick => rfl
  | issued he => exact absurd he hev
  | running he => exact absurd he hev

/-- A TICK raises no count and leaves what the producer writes (R64). -/
theorem exec_tick_frame {s t : State} (h : exec .tick s = .next t) :
    t.count ≤ s.count ∧ t.wr = s.wr ∧ t.buf = s.buf ∧ t.prod = s.prod := by
  obtain ⟨-, ⟨-, rfl⟩ | ⟨-, -, -, rfl⟩ | ⟨-, -, rfl⟩⟩ := tick_next (by simp) h
  · exact ⟨Nat.le_refl _, rfl, rfl, rfl⟩
  · exact ⟨Nat.sub_le _ _, rfl, rfl, rfl⟩
  · exact ⟨Nat.le_refl _, rfl, rfl, rfl⟩

end Sys2Proof.Machine

namespace Sys2Proof
open Machine

/-- Settles O53: no operation and nothing from outside writes the parameters. -/
theorem parametersNeverChange : Obligations.ParametersNeverChange := by
  intro s t h
  cases step_effect h with
  | outside _ _ _ _ _ _ _ ht => rw [ht]; rfl
  | operation _ _ _ _ _ h => exact (exec_effect h).cfg_eq

/-- Settles O54: no operation writes `ie` in the end, so only the environment's drive is left. -/
theorem operationsRestoreTheInterruptEnable : Obligations.OperationsRestoreTheInterruptEnable := by
  refine ⟨fun _ _ _ h => (exec_effect h).ie_eq, fun s t h => ?_⟩
  cases step_effect h with
  | outside _ _ _ _ _ _ hie ht => rw [ht]; exact hie
  | operation _ _ _ _ _ h => exact .inl (exec_effect h).ie_eq

/-- Settles O60: where the producer does not move, a TICK runs or only something from outside is taken. -/
theorem freeSlotsStayFreeForTheProducer : Obligations.FreeSlotsStayFreeForTheProducer := by
  intro s t h hev
  cases step_effect h with
  | outside _ _ _ _ _ _ _ ht => rw [ht]; exact ⟨Nat.le_refl _, rfl, rfl, rfl⟩
  | operation _ _ _ _ turn h =>
    obtain rfl := turn.eq_tick hev
    have hframe := exec_tick_frame h
    exact hframe

end Sys2Proof
end

section
/-! What a step does for a given next event: the turns of the two agents and the events of the environment. -/

namespace Sys2Proof.Machine
variable {s t : State}

/-- The turn of a command in progress that mainline may perform (R36). -/
theorem producerTurn_running {i : Instr} {pos : Pos} (hb : s.booted = true) (hp : s.prod = .running i pos) :
    producerTurn s = if hasPositions i then exec i s else .refused .outsideContext := by
  simp [producerTurn, hp, hb]

/-- The turn of an idle producer that finds a command on the port (R88, R232). -/
theorem producerTurn_issue {i : Instr} {rest : List CmdWord} (hp : s.prod = .idle) (hd : decode s.cmd = .got i rest) :
    producerTurn s = if s.booted ∨ i = .init then exec i { s with cmd := rest } else .refused .beforeInit := by
  simp [producerTurn, hp, hd]

/-- An idle producer waits while the words of a command have not all arrived (log entry 10). -/
theorem producerTurn_incomplete (hp : s.prod = .idle) (hd : decode s.cmd = .incomplete) :
    producerTurn s = .next s := by
  simp [producerTurn, hp, hd]

/-- An idle producer refuses a reserved encoding (R89). -/
theorem producerTurn_reject {why : DecodeError} (hp : s.prod = .idle) (hd : decode s.cmd = .reject why) :
    producerTurn s = .refused (.reservedWord why) := by
  simp [producerTurn, hp, hd]

/-- The handler's turn where a TICK is deliverable (R196). -/
theorem handlerTurn_enabled (h : s.tickEnabled = true) :
    handlerTurn s = if s.booted then exec .tick s else .refused .beforeInit := by
  simp [handlerTurn, h]

/-- The handler's turn where no TICK is deliverable (R196). -/
theorem handlerTurn_disabled (h : s.tickEnabled = false) : handlerTurn s = .next s := by
  simp [handlerTurn, h]

/-- The state after `INIT` (R160). -/
def State.initialized (s : State) : State :=
  State.finish .done
    { s with rd := 0, wr := 0, count := 0, shift := 0#12, armed := false, tx := true, booted := true }

/-- `INIT` completes from an idle producer, and only there (R160, R168). -/
theorem exec_init_eq_next : exec .init s = .next t ↔ s.prod = .idle ∧ t = s.initialized := by
  change execInit s = _ ↔ _
  unfold execInit
  split
  · next hp => simp [hp, State.initialized, eq_comm]
  · next hp => simp [hp]

theorem exec_init_idle (hp : s.prod = .idle) : exec .init s = .next s.initialized := exec_init_eq_next.2 ⟨hp, rfl⟩

/-- `INIT` from a legal build gives a launch state (R40, R230). -/
theorem isLaunch_of_exec_init (hcfg : s.cfg.wf) (hbuf : s.buf.wf) (hslots : ∀ p ∈ s.buf, p.1 < s.cfg.capacity)
    (h : exec .init s = .next t) : t.isLaunch := by
  obtain ⟨-, rfl⟩ := exec_init_eq_next.1 h
  exact ⟨hcfg, hbuf, hslots, rfl, rfl, rfl, rfl, rfl, rfl, rfl, rfl⟩

/-- The state that the next event leaves differs only in what was laid down. -/
theorem fetched_of_nextEvent {e : Event} (h : nextEvent s = (e, t)) : ∃ es n, t = s.fetched es n s.cmd := by
  obtain ⟨es, n, hfetch⟩ := nextEvent_state s
  exact ⟨es, n, by rw [h] at hfetch; exact hfetch⟩

end Sys2Proof.Machine

namespace Sys2Proof
open Machine

/-- Settles O30: `INIT` from an idle producer answers at once, with the fields of a launch state. -/
theorem initGivesALaunchState : Obligations.InitGivesALaunchState := fun _ hp =>
  ⟨exec_init_idle hp, fun hcfg hbuf hslots _ => isLaunch_of_exec_init hcfg hbuf hslots⟩

/-- Settles O4: the decoder rejects the word, and the idle producer refuses what the decoder rejects. -/
theorem reservedEncodingsAreRefused : Obligations.ReservedEncodingsAreRefused := by
  intro s t w ws hnext hidle hcmd hreserved
  obtain ⟨why, hwhy⟩ := decode_reserved hreserved
  rw [← hcmd] at hwhy
  exact ⟨why, (step_eq hnext).trans (producerTurn_reject hidle hwhy)⟩

/-- Settles O49, one clause for each kind of producer's turn after `INIT`. -/
theorem stepRunsTheProducersOperation : Obligations.StepRunsTheProducersOperation := by
  intro s t hnext hb
  rw [step_eq hnext]
  change (∀ i pos, _ → (_ → producerTurn t = _) ∧ (_ → producerTurn t = _)) ∧
    (∀ i rest, _ → _ → producerTurn t = _) ∧ (_ → _ → producerTurn t = _)
  refine ⟨fun i pos hp => ⟨fun hi => ?_, fun hi => ?_⟩, fun i rest hp hd => ?_, fun hp hd => ?_⟩
  · rw [producerTurn_running hb hp, if_pos hi]
  · rw [producerTurn_running hb hp, hi, if_neg Bool.false_ne_true]
  · rw [producerTurn_issue hp hd, if_pos (.inl hb)]
  · exact producerTurn_incomplete hp hd

/-- Settles O50: the turns of both agents before `INIT`. -/
theorem onlyInitRunsBeforeInit : Obligations.OnlyInitRunsBeforeInit := by
  intro s t hb
  refine ⟨fun hnext hp i rest hd => ?_, fun hnext i pos hp => ?_, fun hnext ht => ?_⟩
  · rw [step_eq hnext]
    change (_ → ∃ u, producerTurn t = _ ∧ _) ∧ (_ → producerTurn t = _)
    rw [producerTurn_issue hp hd]
    refine ⟨?_, fun hi => by simp [hb, hi]⟩
    rintro rfl
    rw [if_pos (.inr rfl)]
    exact ⟨_, exec_init_idle hp, exec_init_idle hp, rfl⟩
  · rw [step_eq hnext]
    simp [runEvent, producerTurn, hp, hb]
  · rw [step_eq hnext]
    exact (handlerTurn_enabled ht).trans (by simp [hb])

/-- Settles O51, one clause for each event of the environment. -/
theorem stepRunsTheEnvironment : Obligations.StepRunsTheEnvironment := by
  intro s e es hs
  have hnext := nextEvent_cons hs
  rw [step_eq hnext]
  exact ⟨hnext, fun he => he ▸ rfl, fun _ he => he ▸ rfl, fun _ he => he ▸ rfl⟩

/-- Settles O22: the handler's turn performs a deliverable TICK, which completes under the invariant, and nothing where
none is deliverable. -/
theorem tickOccursExactlyWhenDeliverable : Obligations.TickOccursExactlyWhenDeliverable := by
  intro s t hs hnext
  obtain ⟨es, n, rfl⟩ := fetched_of_nextEvent hnext
  have henabled : (s.fetched es n s.cmd).tickEnabled = s.tickEnabled := rfl
  rw [step_eq hnext, ← tickEnabled_iff, ← henabled]
  change (_ → ∃ u, _ ∧ handlerTurn _ = _) ∧ (_ → handlerTurn _ = _)
  refine ⟨fun he => ?_, fun he => handlerTurn_disabled (Bool.eq_false_iff.2 he)⟩
  obtain ⟨u, hu⟩ := exec_tick_completes he hs.rd_lt
  have hbooted : (s.fetched es n s.cmd).booted = true := hs.booted
  exact ⟨u, hu, by rw [handlerTurn_enabled he, if_pos hbooted, hu]⟩

end Sys2Proof
end

section
/-! The commands step by step (R111, R163 to R166): what the step at each position answers, and what the steps of a whole
command add up to. -/

namespace Sys2Proof.Machine
variable {s t : State} {b : Byte} {bs : List Byte} {len k : Nat}

/-! ## One equation for each position -/

theorem exec_enqueue_spins (hp : position (.enqueue b) s = some .polling) (hc : ¬ s.count < s.cfg.capacity) :
    exec (.enqueue b) s = .next (s.goto (.enqueue b) .polling) := by
  simp [exec, execEnqueue, hp, spinUntil, poll, hc]

theorem exec_enqueue_room (hp : position (.enqueue b) s = some .polling) (hc : s.count < s.cfg.capacity) :
    exec (.enqueue b) s = .next (s.goto (.enqueue b) (.storing 0)) := by
  simp [exec, execEnqueue, hp, spinUntil, poll, hc]

theorem exec_enqueue_storing (hp : position (.enqueue b) s = some (.storing 0)) (hc : s.count < s.cfg.capacity)
    (hw : s.wr < s.cfg.capacity) : exec (.enqueue b) s = .next (s.pushed b).endCommand := by
  simp [exec, execEnqueue, hp, storeByte_next b hc hw]

theorem exec_tryPut_full (hp : position (.tryPut b) s = some .start) (hc : s.count = s.cfg.capacity) :
    exec (.tryPut b) s = .next (s.finish .busy) := by
  simp [exec, execTryPut, hp, tryEnqueueByte_full b hc]

theorem exec_tryPut_room (hp : position (.tryPut b) s = some .start) (hc : s.count ≠ s.cfg.capacity)
    (hw : s.wr < s.cfg.capacity) : exec (.tryPut b) s = .next ((s.pushed b).goto (.tryPut b) .arming) := by
  simp [exec, execTryPut, hp, tryEnqueueByte_room b hc hw]

theorem exec_tryPut_arming (hp : position (.tryPut b) s = some .arming) :
    exec (.tryPut b) s = .next (s.armTick.finish .ok) := by
  simp [exec, execTryPut, hp]

theorem exec_put_spins (hp : position (.put b) s = some .polling) (hc : ¬ s.count < s.cfg.capacity) :
    exec (.put b) s = .next (s.goto (.put b) .polling) := by
  simp [exec, execPut, hp, spinUntil, poll, hc]

theorem exec_put_room (hp : position (.put b) s = some .polling) (hc : s.count < s.cfg.capacity) :
    exec (.put b) s = .next (s.goto (.put b) (.storing 0)) := by
  simp [exec, execPut, hp, spinUntil, poll, hc]

theorem exec_put_storing (hp : position (.put b) s = some (.storing 0)) (hc : s.count < s.cfg.capacity)
    (hw : s.wr < s.cfg.capacity) : exec (.put b) s = .next ((s.pushed b).goto (.put b) .arming) := by
  simp [exec, execPut, hp, storeThen, storeByte_next b hc hw]

theorem exec_put_arming (hp : position (.put b) s = some .arming) :
    exec (.put b) s = .next (s.armTickClear.finish .done) := by
  simp [exec, execPut, hp]

/-- The store of a byte that the string has, in a ring with room (R94, R113). -/
theorem storeStringByte_room {i : Instr} (hb : bs[k]? = some b) (hc : s.count < s.cfg.capacity)
    (hw : s.wr < s.cfg.capacity) :
    storeStringByte bs len k i s = .next ((s.pushed b).goto i (stringPos len (k + 1))) := by
  simp [storeStringByte, stringByte, hb, storeThen, storeByte_next b hc hw]

theorem exec_tryPutString_busy (hp : position (.tryPutString bs len) s = some .checking)
    (hfree : s.cfg.capacity - s.count < len) : exec (.tryPutString bs len) s = .next (s.finish .busy) := by
  simp [exec, execTryPutString, hp, poll, hfree]

theorem exec_tryPutString_room (hp : position (.tryPutString bs len) s = some .checking)
    (hfree : len ≤ s.cfg.capacity - s.count) :
    exec (.tryPutString bs len) s = .next (s.goto (.tryPutString bs len) (stringPos len 0)) := by
  simp [exec, execTryPutString, hp, poll, Nat.not_lt_of_le hfree]

theorem exec_tryPutString_storing (hp : position (.tryPutString bs len) s = some (.storing k)) (hb : bs[k]? = some b)
    (hc : s.count < s.cfg.capacity) (hw : s.wr < s.cfg.capacity) :
    exec (.tryPutString bs len) s =
      .next ((s.pushed b).goto (.tryPutString bs len) (stringPos len (k + 1))) := by
  simp [exec, execTryPutString, hp, storeStringByte_room hb hc hw]

theorem exec_tryPutString_arming (hp : position (.tryPutString bs len) s = some .arming) :
    exec (.tryPutString bs len) s = .next (s.armTick.finish .ok) := by
  simp [exec, execTryPutString, hp]

theorem exec_putString_spins (hp : position (.putString bs len) s = some .polling)
    (hfree : s.cfg.capacity - s.count < len) :
    exec (.putString bs len) s = .next (s.goto (.putString bs len) .polling) := by
  simp [exec, execPutString, hp, spinUntil, poll, Nat.not_le_of_lt hfree]

theorem exec_putString_room (hp : position (.putString bs len) s = some .polling)
    (hfree : len ≤ s.cfg.capacity - s.count) :
    exec (.putString bs len) s = .next (s.goto (.putString bs len) (stringPos len 0)) := by
  simp [exec, execPutString, hp, spinUntil, poll, hfree]

theorem exec_putString_storing (hp : position (.putString bs len) s = some (.storing k)) (hb : bs[k]? = some b)
    (hc : s.count < s.cfg.capacity) (hw : s.wr < s.cfg.capacity) :
    exec (.putString bs len) s =
      .next ((s.pushed b).goto (.putString bs len) (stringPos len (k + 1))) := by
  simp [exec, execPutString, hp, storeStringByte_room hb hc hw]

theorem exec_putString_arming (hp : position (.putString bs len) s = some .arming) :
    exec (.putString bs len) s = .next (s.armTickClear.finish .done) := by
  simp [exec, execPutString, hp]

/-- A string of length 0 has nothing to store (D16). -/
theorem stringPos_zero : stringPos 0 0 = .arming := rfl

/-! ## Several steps of one operation -/

/-- One step more of an operation, when it answers next. -/
theorem execTimes_succ {n : Nat} {i : Instr} (h : exec i s = .next t) :
    execTimes (n + 1) i s = execTimes n i t := by
  simp [execTimes, h]

theorem execTimes_one {i : Instr} (h : exec i s = .next t) : execTimes 1 i s = .next t := execTimes_succ h

/-- The command in progress stands where `goto` has put it. -/
theorem position_goto (i : Instr) (pos : Pos) (s : State) : position i (s.goto i pos) = some pos :=
  position_running rfl

/-- A step that an operation repeats from where it leads is repeated any number of times. -/
theorem execTimes_fixed {i : Instr} (n : Nat) (h : exec i s = .next t) (hfix : exec i t = .next t) :
    execTimes (n + 1) i s = .next t := by
  induction n generalizing s with
  | zero => exact execTimes_one h
  | succ n ih => rw [execTimes_succ h, ih hfix]

/-- A state whose producer stands where `goto` would put it. -/
theorem State.goto_eq_self {i : Instr} {pos : Pos} (h : s.prod = .running i pos) : s.goto i pos = s := by
  rw [State.goto, ← h]

/-- The state after the stores of some bytes in order. -/
def State.pushedAll (l : List Byte) (s : State) : State := l.foldl (fun u b => u.pushed b) s

theorem State.pushedAll_cons (b : Byte) (l : List Byte) (s : State) :
    s.pushedAll (b :: l) = (s.pushed b).pushedAll l := rfl

/-- Stores write the storage, `wr` and `count`, and nothing else (R113). -/
theorem State.pushedAll_frame (l : List Byte) (s : State) :
    ∃ buf wr, s.pushedAll l = { s with buf := buf, wr := wr, count := s.count + l.length } := by
  induction l generalizing s with
  | nil => exact ⟨s.buf, s.wr, rfl⟩
  | cons b l ih =>
    obtain ⟨buf, wr, h⟩ := ih (s.pushed b)
    refine ⟨buf, wr, h.trans ?_⟩
    simp [State.pushed, Nat.add_assoc, Nat.add_comm 1]

theorem State.pushedAll_goto (i : Instr) (pos : Pos) (l : List Byte) (s : State) :
    (s.goto i pos).pushedAll l = (s.pushedAll l).goto i pos := by
  induction l generalizing s with
  | nil => rfl
  | cons b l ih => exact ih (s.pushed b)

/-- The stores of some bytes append them to the queue in order (R44, R113). -/
theorem State.RingOk.queued_pushedAll {l : List Byte} (h : s.RingOk) (hroom : s.count + l.length ≤ s.cfg.capacity) :
    (s.pushedAll l).queued = s.queued ++ l := by
  induction l generalizing s with
  | nil => rw [List.append_nil]; rfl
  | cons b l ih =>
    rw [List.length_cons] at hroom
    have hrest : (s.pushed b).count + l.length ≤ (s.pushed b).cfg.capacity := by
      simp only [State.pushed]
      omega
    rw [State.pushedAll_cons, ih (h.pushed b) hrest, h.queued_pushed (by omega), List.append_assoc]
    rfl

/-- An operation that at the store of a byte of `bs` stores it and goes on as R165 and R166 say. -/
def StoresString (i : Instr) (bs : List Byte) (len : Nat) : Prop :=
  ∀ (s : State) (k : Nat) (b : Byte), position i s = some (.storing k) → bs[k]? = some b →
    s.count < s.cfg.capacity → s.wr < s.cfg.capacity →
    exec i s = .next ((s.pushed b).goto i (stringPos len (k + 1)))

theorem storesString_tryPutString (bs : List Byte) (len : Nat) : StoresString (.tryPutString bs len) bs len :=
  fun _ _ _ => exec_tryPutString_storing

theorem storesString_putString (bs : List Byte) (len : Nat) : StoresString (.putString bs len) bs len :=
  fun _ _ _ => exec_putString_storing

/-- The `m` stores that a string command has still to make, in ascending index, lead to its arming step. -/
theorem StoresString.execTimes {i : Instr} (hstores : StoresString i bs len) (hlen : len ≤ bs.length) (n : Nat)
    {m : Nat} (hkm : k + m = len) (hprod : s.prod = .running i (stringPos len k)) (hring : s.RingOk)
    (hroom : s.count + m ≤ s.cfg.capacity) :
    execTimes (m + n) i s = execTimes n i ((s.pushedAll ((bs.drop k).take m)).goto i .arming) := by
  induction m generalizing s k with
  | zero =>
    obtain rfl : k = len := by omega
    rw [stringPos, if_neg (Nat.lt_irrefl k)] at hprod
    rw [Nat.zero_add, List.take_zero]
    exact congrArg _ (State.goto_eq_self hprod).symm
  | succ m ih =>
    have hk : k < bs.length := by omega
    have hpos : position i s = some (.storing k) := by
      rw [position_running hprod, stringPos, if_pos (by omega)]
    have hstep := hstores s k bs[k] hpos (List.getElem?_eq_getElem hk) (by omega) hring.wr_lt
    have hroom' : s.count + 1 + m ≤ s.cfg.capacity := by omega
    have hring' : ((s.pushed bs[k]).goto i (stringPos len (k + 1))).RingOk := { hring.pushed bs[k] with }
    rw [Nat.succ_add, execTimes_succ hstep, ih (by omega) rfl hring' hroom', State.pushedAll_goto,
      List.drop_eq_getElem_cons hk, List.take_succ_cons, State.pushedAll_cons]
    rfl

end Sys2Proof.Machine

namespace Sys2Proof
open Machine

/-- Settles O12, one clause for each position and outcome of the poll. -/
theorem enqueuePollsThenStores : Obligations.EnqueuePollsThenStores := fun _ _ =>
  ⟨exec_enqueue_spins, exec_enqueue_room, exec_enqueue_storing⟩

/-- Settles O28: `ARM` is the arming and nothing else. -/
theorem armSetsArmed : Obligations.ArmSetsArmed := fun _ => rfl

/-- Settles O29: `ARM_CLR` is the arming with the clear and nothing else. -/
theorem armClrSetsArmedAndDropsThePendingTick : Obligations.ArmClrSetsArmedAndDropsThePendingTick := fun _ => rfl

/-- Settles O31, one clause for each position and answer of the enqueue. -/
theorem tryPutStepByStep : Obligations.TryPutStepByStep := fun _ _ =>
  ⟨exec_tryPut_full, exec_tryPut_room, exec_tryPut_arming⟩

/-- Settles O32, one clause for each position and outcome of the poll. -/
theorem putStepByStep : Obligations.PutStepByStep := fun _ _ =>
  ⟨exec_put_spins, exec_put_room, exec_put_storing, exec_put_arming⟩

/-- Settles O33, one clause for each position and outcome of the free-space test. -/
theorem tryPutStringStepByStep : Obligations.TryPutStringStepByStep := fun _ _ _ =>
  ⟨exec_tryPutString_busy, exec_tryPutString_room, fun _ _ => exec_tryPutString_storing, exec_tryPutString_arming⟩

/-- Settles O34, one clause for each position and outcome of the poll. -/
theorem putStringStepByStep : Obligations.PutStringStepByStep := fun _ _ _ =>
  ⟨exec_putString_spins, exec_putString_room, fun _ _ => exec_putString_storing, exec_putString_arming⟩

/-- Settles O35: the store and the arming, for `PUT` after a poll that finds room. -/
theorem singleByteCommandsComplete : Obligations.SingleByteCommandsComplete := by
  intro b s hp hc hw
  refine ⟨?_, ?_⟩
  · rw [execTimes_succ (exec_tryPut_room (position_idle _ hp) hc.ne hw),
      execTimes_one (exec_tryPut_arming (position_goto _ _ _))]
    simp only [hp]
    rfl
  · rw [execTimes_succ (exec_put_room (position_idle _ hp) hc),
      execTimes_succ (exec_put_storing (position_goto _ _ s) hc hw),
      execTimes_one (exec_put_arming (position_goto _ _ _))]
    simp only [hp]
    rfl

/-- Settles O37: with nothing to store the test leads straight to the arming step. -/
theorem zeroLengthStringsOnlyArm : Obligations.ZeroLengthStringsOnlyArm := by
  intro bs s hp
  refine ⟨?_, ?_⟩
  · rw [execTimes_succ (exec_tryPutString_room (position_idle _ hp) (Nat.zero_le _)), stringPos_zero,
      execTimes_one (exec_tryPutString_arming (position_goto _ _ _))]
    simp only [hp]
    rfl
  · rw [execTimes_succ (exec_putString_room (position_idle _ hp) (Nat.zero_le _)), stringPos_zero,
      execTimes_one (exec_putString_arming (position_goto _ _ _))]
    simp only [hp]
    rfl

/-- Settles O38: a poll without room leads to a state from which it leads back to itself. -/
theorem blockingCommandsSpinWithoutRoom : Obligations.BlockingCommandsSpinWithoutRoom := by
  intro n bs len b s hp
  refine ⟨fun hfull => ?_, fun hfree => ⟨?_, ?_⟩⟩
  · have hc : ¬ s.count < s.cfg.capacity := by omega
    exact execTimes_fixed n (exec_put_spins (position_idle _ hp) hc) (exec_put_spins (position_goto _ _ s) hc)
  · exact execTimes_fixed n (exec_putString_spins (position_idle _ hp) hfree)
      (exec_putString_spins (position_goto _ _ s) hfree)
  · rw [exec_tryPutString_busy (position_idle _ hp) hfree]
    simp only [hp]
    rfl

/-- Settles O36: the test, the stores in ascending index, and the arming step. -/
theorem stringCommandsQueueTheWholeString : Obligations.StringCommandsQueueTheWholeString := by
  intro bs len s hs hp hlen hroom
  have hring : s.RingOk := ⟨hs.rd_lt, hs.wr_eq⟩
  have hbytes : (bs.take len).length = len := List.length_take_of_le hlen
  have hqueued := hring.queued_pushedAll (l := bs.take len) (by rwa [hbytes])
  obtain ⟨buf, wr, hframe⟩ := s.pushedAll_frame (bs.take len)
  rw [hbytes] at hframe
  have hfree : len ≤ s.cfg.capacity - s.count := by omega
  have stores {i : Instr} (hstores : StoresString i bs len) :
      execTimes (len + 1) i (s.goto i (stringPos len 0)) =
        execTimes 1 i ((s.pushedAll (bs.take len)).goto i .arming) := by
    have hgoto : (s.goto i (stringPos len 0)).RingOk := { hring with }
    rw [hstores.execTimes hlen 1 (Nat.zero_add len) rfl hgoto hroom, State.pushedAll_goto]
    rfl
  refine ⟨⟨(s.pushedAll (bs.take len)).armTick.finish .ok, ?_, ?_⟩,
    ⟨(s.pushedAll (bs.take len)).armTickClear.finish .done, ?_, ?_⟩⟩
  · rw [execTimes_succ (exec_tryPutString_room (position_idle _ hp) hfree),
      stores (storesString_tryPutString bs len), execTimes_one (exec_tryPutString_arming (position_goto _ _ _))]
    rfl
  · refine ⟨hqueued, rfl, ?_⟩
    rw [hframe]
    exact ⟨rfl, rfl, rfl, rfl, rfl, rfl, rfl, rfl, rfl⟩
  · rw [execTimes_succ (exec_putString_room (position_idle _ hp) hfree), stores (storesString_putString bs len),
      execTimes_one (exec_putString_arming (position_goto _ _ _))]
    rfl
  · refine ⟨hqueued, rfl, ?_⟩
    rw [hframe]
    exact ⟨rfl, rfl, rfl, rfl, rfl, rfl, rfl, rfl, rfl⟩

end Sys2Proof
end

section
/-! The invariant of the machine: the part about the engine, which every effect of an operation keeps, and the part about
the producer, which every step of a legal command keeps. -/

namespace Sys2Proof.Machine
variable {s t : State} {i : Instr} {pos : Pos} {k : Nat}

/-! ## The engine's part -/

/-- A shift register with one bit left holds a 1 in it. -/
theorem getLsbD_zero_of_last {v : ShiftReg} (hv : v ≠ 0#12) (hlast : v >>> 1 = 0#12) : v.getLsbD 0 = true := by
  by_contra hbit
  refine hv (BitVec.eq_of_getLsbD_eq fun k _ => ?_)
  cases k with
  | zero => simpa using hbit
  | succ k => simpa [Nat.add_comm] using congrArg (BitVec.getLsbD · k) hlast

/-- A register is zero or a frame shifted right by fewer than `W_F` places (R29). -/
def InFlight (p : Parity) (v : ShiftReg) : Prop := v = 0#12 ∨ ∃ c k, k < frameWidth p ∧ v = frame p c >>> k

theorem inFlight_frame (p : Parity) (c : Byte) : InFlight p (frame p c) :=
  .inr ⟨c, 0, by cases p <;> decide, (BitVec.ushiftRight_zero _).symm⟩

theorem InFlight.shifted {p : Parity} {v : ShiftReg} (h : InFlight p v) : InFlight p (v >>> 1) := by
  obtain rfl | ⟨c, k, hk, rfl⟩ := h
  · exact .inl BitVec.zero_ushiftRight
  · rw [← BitVec.shiftRight_add]
    by_cases hlast : k + 1 < frameWidth p
    · exact .inr ⟨c, k + 1, hlast, rfl⟩
    · obtain hwidth : k + 1 = frameWidth p := by omega
      exact .inl (hwidth ▸ frame_ushiftRight_frameWidth p c)

theorem frame_ne_zero (p : Parity) (c : Byte) : frame p c ≠ 0#12 := by
  simpa using frame_ushiftRight_ne_zero (p := p) (k := 0) (by cases p <;> decide) c

/-- The invariant of the machine without what it says of the producer. -/
structure State.EngineInv (s : State) : Prop where
  config : s.cfg.wf
  canonical : s.buf.wf
  slots : ∀ p ∈ s.buf, p.1 < s.cfg.capacity
  rd_lt : s.rd < s.cfg.capacity
  wr_eq : s.wr = (s.rd + s.count) % s.cfg.capacity
  stored : ∀ k < s.count, (s.buf.read ((s.rd + k) % s.cfg.capacity)).isSome
  inFlight : InFlight s.cfg.parity s.shift
  mark : s.shift = 0#12 → s.tx = true
  disarmed_idle : s.armed = false → s.shift = 0#12
  booted : s.booted = true

namespace State.EngineInv

theorem ring (h : s.EngineInv) : s.RingOk := ⟨h.rd_lt, h.wr_eq⟩

theorem of_isLaunch (h : s.isLaunch) : s.EngineInv where
  config := h.config
  canonical := h.canonical
  slots := h.slots
  rd_lt := h.rd ▸ h.config.1
  wr_eq := by simp [h.wr, h.rd, h.count]
  stored := by simp [h.count]
  inFlight := .inl h.shift
  mark _ := h.tx
  disarmed_idle _ := h.shift
  booted := h.booted

theorem pushed (h : s.EngineInv) (b : Byte) : (s.pushed b).EngineInv where
  config := h.config
  canonical := Memory.wf_write _ _ h.canonical
  slots p hp := by
    obtain rfl | hp := Memory.mem_write hp
    · exact h.ring.wr_lt
    · exact h.slots p hp
  rd_lt := h.rd_lt
  wr_eq := (h.ring.pushed b).wr_eq
  stored k hk := by
    change ((s.buf.write s.wr b).read ((s.rd + k) % s.cfg.capacity)).isSome
    rw [Memory.read_write]
    split
    · rfl
    · next hne =>
      refine h.stored k (lt_of_le_of_ne (Nat.le_of_lt_succ hk) ?_)
      rintro rfl
      exact hne h.ring.wr_eq.symm
  inFlight := h.inFlight
  mark := h.mark
  disarmed_idle := h.disarmed_idle
  booted := h.booted

theorem popped (h : s.EngineInv) (hc : s.count ≠ 0) : s.popped.EngineInv where
  config := h.config
  canonical := h.canonical
  slots := h.slots
  rd_lt := (h.ring.popped hc).rd_lt
  wr_eq := (h.ring.popped hc).wr_eq
  stored k hk := by
    change (s.buf.read (((s.rd + 1) % s.cfg.capacity + k) % s.cfg.capacity)).isSome
    rw [ringSlot_succ]
    exact h.stored (k + 1) (Nat.add_lt_of_lt_sub hk)
  inFlight := h.inFlight
  mark := h.mark
  disarmed_idle := h.disarmed_idle
  booted := h.booted

theorem loaded (h : s.EngineInv) (hc : s.count ≠ 0) (harmed : s.armed = true) : s.loaded.EngineInv :=
  { h.popped hc with
    inFlight := inFlight_frame _ _
    mark := fun hzero => absurd hzero (frame_ne_zero _ _)
    disarmed_idle := fun hdis => by simp [State.loaded, State.popped, harmed] at hdis }

theorem emitted (h : s.EngineInv) (hs : s.shift ≠ 0#12) (harmed : s.armed = true) : s.emitted.EngineInv :=
  { h with
    inFlight := h.inFlight.shifted
    mark := getLsbD_zero_of_last hs
    disarmed_idle := fun hdis => by
      by_contra hne
      have hkept : s.emitted.armed = s.armed := if_neg fun hlast => hne hlast.1
      simp [hkept, harmed] at hdis }

/-- Every effect of an operation keeps the engine's part of the invariant. -/
theorem of_effect (h : Effect i s t) (hs : s.EngineInv) : t.EngineInv := by
  have armed_of (he : s.tickEnabled = true) : s.armed = true := ((tickEnabled_iff s).1 he).1
  cases h with
  | init => exact of_isLaunch ⟨hs.config, hs.canonical, hs.slots, rfl, rfl, rfl, rfl, rfl, rfl, rfl, rfl⟩
  | quiet => exact { hs with }
  | stored b => exact { hs.pushed b with }
  | arming => exact { hs with disarmed_idle := nofun }
  | popped _ hc => exact { hs.popped hc with }
  | emit _ he hne => exact { hs.emitted hne (armed_of he) with }
  | load _ he _ hc => exact { hs.loaded hc (armed_of he) with }
  | nop => exact { hs with }

end State.EngineInv

/-! ## The producer's part -/

/-- What the invariant of the machine says of the producer (R31, R36, R64, R169). -/
structure State.ProducerInv (s : State) : Prop where
  room : s.count + s.prod.promised ≤ s.cfg.capacity
  window : s.armed = false → s.count = 0 ∨ s.prod.inWindow = true
  legal : s.prod.legal = true

/-- The invariant of the machine is its two parts. -/
theorem State.inv_iff : s.Inv ↔ s.EngineInv ∧ s.ProducerInv := by
  constructor
  · intro h
    exact ⟨⟨h.config, h.canonical, h.slots, h.rd_lt, h.wr_eq, h.stored, h.inFlight, h.mark,
      fun hd => (h.disarmed hd).1, h.booted⟩, ⟨h.room, fun hd => (h.disarmed hd).2, h.producer⟩⟩
  · rintro ⟨h, hp⟩
    exact ⟨h.config, h.canonical, h.slots, h.rd_lt, hp.room, h.wr_eq, h.stored, h.inFlight, h.mark,
      fun hd => ⟨h.disarmed_idle hd, hp.window hd⟩, hp.legal, h.booted⟩

namespace State.ProducerInv

theorem of_isLaunch (h : s.isLaunch) : s.ProducerInv where
  room := by simp [h.prod, h.count, Producer.promised]
  window _ := .inl h.count
  legal := by simp [h.prod, Producer.legal]

theorem count_le (h : s.ProducerInv) : s.count ≤ s.cfg.capacity :=
  (Nat.le_add_right _ _).trans h.room

/-- A command that ends leaves nothing promised and no window open. -/
theorem finish (hc : s.count ≤ s.cfg.capacity) (hw : s.armed = false → s.count = 0) (r : Result) :
    (s.finish r).ProducerInv :=
  ⟨hc, fun hd => .inl (hw hd), rfl⟩

theorem finish_armTick (hc : s.count ≤ s.cfg.capacity) (r : Result) : (s.armTick.finish r).ProducerInv :=
  finish (s := s.armTick) hc nofun r

theorem finish_armTickClear (hc : s.count ≤ s.cfg.capacity) (r : Result) : (s.armTickClear.finish r).ProducerInv :=
  finish (s := s.armTickClear) hc nofun r

/-- A TICK leaves the producer, raises no count, and disarms only where the queue is empty. -/
theorem of_tick (h : exec .tick s = .next t) (hs : s.ProducerInv) : t.ProducerInv := by
  obtain ⟨he, htick⟩ := tick_next (by simp) h
  obtain ⟨harmed, -⟩ := (tickEnabled_iff s).1 he
  obtain ⟨-, rfl⟩ | ⟨-, -, -, rfl⟩ | ⟨-, -, rfl⟩ := htick
  · refine ⟨hs.room, fun hd => .inl ?_, hs.legal⟩
    by_contra hc
    have hkept : s.enterHandler.emitted.armed = s.armed := if_neg fun hlast => hc hlast.2
    rw [State.leaveHandler_armed, hkept, harmed] at hd
    cases hd
  · exact ⟨(Nat.add_le_add_right (Nat.sub_le _ _) _).trans hs.room, fun hd => absurd (harmed.symm.trans hd) (by decide),
      hs.legal⟩
  · exact { hs with }

/-! ### The positions to which a command goes on -/

/-- Before the store of its byte `k` a command is promised the stores from there on. -/
theorem promised_stringPos (i : Instr) (k : Nat) :
    (Producer.running i (stringPos (storesOf i) k)).promised = storesOf i - k := by
  unfold stringPos
  split
  · rfl
  · next hk => exact (Nat.sub_eq_zero_of_le (Nat.le_of_not_lt hk)).symm

/-- After a store a command is in its window (R169). -/
theorem inWindow_stringPos (i : Instr) (len k : Nat) : (Producer.running i (stringPos len (k + 1))).inWindow = true := by
  unfold stringPos
  split <;> rfl

/-- A command that polls again, or for the first time. -/
theorem goto_polling (hwf : i.wellFormed = true) (hlegal : legalPos i .polling = true)
    (hc : s.count ≤ s.cfg.capacity) (hw : s.armed = false → s.count = 0) : (s.goto i .polling).ProducerInv :=
  ⟨hc, fun hd => .inl (hw hd), by simp [Producer.legal, hwf, hlegal]⟩

/-- A command whose test has found room for its stores. -/
theorem goto_first (hwf : i.wellFormed = true) (hlegal : legalPos i (stringPos (storesOf i) 0) = true)
    (hroom : s.count + storesOf i ≤ s.cfg.capacity) (hw : s.armed = false → s.count = 0) :
    (s.goto i (stringPos (storesOf i) 0)).ProducerInv where
  room := by rwa [State.goto_prod, promised_stringPos]
  window hd := .inl (hw hd)
  legal := by simp [Producer.legal, hwf, hlegal]

/-- A command that has stored its byte `k`. -/
theorem goto_next (b : Byte) (hwf : i.wellFormed = true) (hlegal : legalPos i (stringPos (storesOf i) (k + 1)) = true)
    (hk : k < storesOf i) (hroom : s.count + (storesOf i - k) ≤ s.cfg.capacity) :
    ((s.pushed b).goto i (stringPos (storesOf i) (k + 1))).ProducerInv where
  room := by
    rw [State.goto_prod, promised_stringPos]
    change s.count + 1 + (storesOf i - (k + 1)) ≤ s.cfg.capacity
    omega
  window _ := .inr (inWindow_stringPos i _ k)
  legal := by simp [Producer.legal, hwf, hlegal]

end State.ProducerInv

/-! ## The steps of the commands -/

section
variable {b : Byte} {bs : List Byte} {len : Nat}

theorem legalPos_tryPut (h : legalPos (.tryPut b) pos = true) : pos = .start ∨ pos = .arming := by
  cases pos <;> simp [legalPos] at h ⊢

theorem legalPos_put (h : legalPos (.put b) pos = true) : pos = .polling ∨ pos = .storing 0 ∨ pos = .arming := by
  cases pos <;> simp [legalPos] at h ⊢
  exact h

theorem legalPos_tryPutString (h : legalPos (.tryPutString bs len) pos = true) :
    pos = .checking ∨ (∃ k < len, pos = .storing k) ∨ pos = .arming := by
  cases pos <;> simp [legalPos] at h ⊢
  exact h

theorem legalPos_putString (h : legalPos (.putString bs len) pos = true) :
    pos = .polling ∨ (∃ k < len, pos = .storing k) ∨ pos = .arming := by
  cases pos <;> simp [legalPos] at h ⊢
  exact h

theorem legalPos_stringPos (bs : List Byte) (len k : Nat) :
    legalPos (.tryPutString bs len) (stringPos len k) = true ∧ legalPos (.putString bs len) (stringPos len k) = true := by
  unfold stringPos
  split
  · next hk => simpa [legalPos] using hk
  · exact ⟨rfl, rfl⟩

end

/-- The command `i` stands at its position `pos`, in a state that keeps what the invariant says of a producer there. An
idle producer stands at the beginning of every command. -/
structure Stands (i : Instr) (pos : Pos) (s : State) : Prop where
  position_eq : position i s = some pos
  wellFormed : i.wellFormed = true
  legal : legalPos i pos = true
  room : s.count + (Producer.running i pos).promised ≤ s.cfg.capacity
  window : s.armed = false → s.count = 0 ∨ (Producer.running i pos).inWindow = true
  wr_lt : s.wr < s.cfg.capacity

namespace Stands

theorem count_le (h : Stands i pos s) : s.count ≤ s.cfg.capacity := (Nat.le_add_right _ _).trans h.room

/-- Outside the window a disarmed engine is empty (R31). -/
theorem empty_of_disarmed (h : Stands i pos s) (hw : (Producer.running i pos).inWindow = false)
    (hd : s.armed = false) : s.count = 0 :=
  (h.window hd).resolve_right (by simp [hw])

/-- Before a store the promised slot is free (R64). -/
theorem count_lt (h : Stands i (.storing k) s) (hk : k < storesOf i) : s.count < s.cfg.capacity := by
  have hroom : s.count + (storesOf i - k) ≤ s.cfg.capacity := h.room
  omega

theorem tryPut_completes {b : Byte} (h : Stands (.tryPut b) pos s) :
    ∃ t, exec (.tryPut b) s = .next t ∧ t.ProducerInv := by
  have hcount := h.count_le
  obtain rfl | rfl := legalPos_tryPut h.legal
  · by_cases hfull : s.count = s.cfg.capacity
    · exact ⟨_, exec_tryPut_full h.position_eq hfull, .finish hcount (h.empty_of_disarmed rfl) _⟩
    · have hroom : s.count + 1 ≤ s.cfg.capacity := by omega
      exact ⟨_, exec_tryPut_room h.position_eq hfull h.wr_lt,
        State.ProducerInv.goto_next (i := .tryPut b) (k := 0) b rfl rfl Nat.one_pos hroom⟩
  · exact ⟨_, exec_tryPut_arming h.position_eq, .finish_armTick hcount _⟩

theorem put_completes {b : Byte} (h : Stands (.put b) pos s) : ∃ t, exec (.put b) s = .next t ∧ t.ProducerInv := by
  have hcount := h.count_le
  obtain rfl | rfl | rfl := legalPos_put h.legal
  · by_cases hfree : s.count < s.cfg.capacity
    · exact ⟨_, exec_put_room h.position_eq hfree,
        State.ProducerInv.goto_first (i := .put b) rfl rfl hfree (h.empty_of_disarmed rfl)⟩
    · exact ⟨_, exec_put_spins h.position_eq hfree, .goto_polling rfl rfl hcount (h.empty_of_disarmed rfl)⟩
  · exact ⟨_, exec_put_storing h.position_eq (h.count_lt Nat.one_pos) h.wr_lt,
      State.ProducerInv.goto_next (i := .put b) b rfl rfl Nat.one_pos h.room⟩
  · exact ⟨_, exec_put_arming h.position_eq, .finish_armTickClear hcount _⟩

theorem tryPutString_completes {bs : List Byte} {len : Nat} (h : Stands (.tryPutString bs len) pos s) :
    ∃ t, exec (.tryPutString bs len) s = .next t ∧ t.ProducerInv := by
  have hcount := h.count_le
  have hlen : len ≤ bs.length := of_decide_eq_true h.wellFormed
  have hlegal (k : Nat) := (legalPos_stringPos bs len k).1
  obtain rfl | ⟨k, hk, rfl⟩ | rfl := legalPos_tryPutString h.legal
  · by_cases hfree : len ≤ s.cfg.capacity - s.count
    · exact ⟨_, exec_tryPutString_room h.position_eq hfree,
        State.ProducerInv.goto_first (i := .tryPutString bs len) h.wellFormed (hlegal 0)
          (Nat.add_le_of_le_sub' hcount hfree) (h.empty_of_disarmed rfl)⟩
    · exact ⟨_, exec_tryPutString_busy h.position_eq (Nat.lt_of_not_le hfree),
        .finish hcount (h.empty_of_disarmed rfl) _⟩
  · exact ⟨_, exec_tryPutString_storing h.position_eq (List.getElem?_eq_getElem (hk.trans_le hlen)) (h.count_lt hk)
        h.wr_lt,
      State.ProducerInv.goto_next (i := .tryPutString bs len) _ h.wellFormed (hlegal (k + 1)) hk h.room⟩
  · exact ⟨_, exec_tryPutString_arming h.position_eq, .finish_armTick hcount _⟩

theorem putString_completes {bs : List Byte} {len : Nat} (h : Stands (.putString bs len) pos s) :
    ∃ t, exec (.putString bs len) s = .next t ∧ t.ProducerInv := by
  have hcount := h.count_le
  have hlen : len ≤ bs.length := of_decide_eq_true h.wellFormed
  have hlegal (k : Nat) := (legalPos_stringPos bs len k).2
  obtain rfl | ⟨k, hk, rfl⟩ | rfl := legalPos_putString h.legal
  · by_cases hfree : len ≤ s.cfg.capacity - s.count
    · exact ⟨_, exec_putString_room h.position_eq hfree,
        State.ProducerInv.goto_first (i := .putString bs len) h.wellFormed (hlegal 0)
          (Nat.add_le_of_le_sub' hcount hfree) (h.empty_of_disarmed rfl)⟩
    · exact ⟨_, exec_putString_spins h.position_eq (Nat.lt_of_not_le hfree),
        .goto_polling h.wellFormed rfl hcount (h.empty_of_disarmed rfl)⟩
  · exact ⟨_, exec_putString_storing h.position_eq (List.getElem?_eq_getElem (hk.trans_le hlen)) (h.count_lt hk)
        h.wr_lt,
      State.ProducerInv.goto_next (i := .putString bs len) _ h.wellFormed (hlegal (k + 1)) hk h.room⟩
  · exact ⟨_, exec_putString_arming h.position_eq, .finish_armTickClear hcount _⟩

/-- A command that stands at a legal position takes its next step, which keeps the producer's part of the invariant. -/
theorem completes (h : Stands i pos s) : ∃ t, exec i s = .next t ∧ t.ProducerInv := by
  have hlegal := h.legal
  cases i with
  | tryPut b => exact h.tryPut_completes
  | put b => exact h.put_completes
  | tryPutString bs len => exact h.tryPutString_completes
  | putString bs len => exact h.putString_completes
  | _ => simp [legalPos] at hlegal

/-- The command in progress stands at its position. -/
theorem of_running (hs : s.ProducerInv) (hr : s.RingOk) (hp : s.prod = .running i pos) : Stands i pos s := by
  have hlegal := hs.legal
  rw [hp, Producer.legal, Bool.and_eq_true] at hlegal
  exact ⟨position_running hp, hlegal.1, hlegal.2, hp ▸ hs.room, hp ▸ hs.window, hr.wr_lt⟩

/-- The commands of the port but `INIT` begin at a legal position, with nothing promised and no window open. -/
theorem entry_of_fitsPort (h : i.fitsPort = true) (hi : i ≠ .init) :
    (Producer.running i (entryPos i)).promised = 0 ∧ (Producer.running i (entryPos i)).inWindow = false ∧
      i.wellFormed = true ∧ legalPos i (entryPos i) = true := by
  cases i with
  | init => exact absurd rfl hi
  | tryPut b => exact ⟨rfl, rfl, rfl, rfl⟩
  | put b => exact ⟨rfl, rfl, rfl, rfl⟩
  | tryPutString bs len => exact ⟨rfl, rfl, decide_eq_true (fitsPort_string.1.1 h).1, rfl⟩
  | putString bs len => exact ⟨rfl, rfl, decide_eq_true (fitsPort_string.2.1 h).1, rfl⟩
  | _ => cases h

/-- A command that is read from the port stands at its beginning where the producer is idle. -/
theorem of_issue {ws rest : List CmdWord} (hs : s.ProducerInv) (hr : s.RingOk) (hp : s.prod = .idle)
    (hd : decode ws = .got i rest) (hi : i ≠ .init) : Stands i (entryPos i) s := by
  obtain ⟨hpromised, hwindow, hwf, hlegal⟩ : (Producer.running i (entryPos i)).promised = 0 ∧
      (Producer.running i (entryPos i)).inWindow = false ∧ i.wellFormed = true ∧ legalPos i (entryPos i) = true := by
    obtain ⟨front, henc, -⟩ := encode_of_decode hd
    exact entry_of_fitsPort (encode_eq_some henc) hi
  refine ⟨position_idle i hp, hwf, hlegal, ?_, fun hdis => .inl ?_, hr.wr_lt⟩
  · rw [hpromised]
    exact hs.count_le
  · exact (hs.window hdis).resolve_right (by simp [hp, Producer.inWindow])

/-- A command that stands at a legal position is one of several steps of mainline (R201). -/
theorem hasPositions (h : Stands i pos s) : hasPositions i = true := by
  have hlegal := h.legal
  cases i with
  | tryPut | put | tryPutString | putString => rfl
  | _ => simp [legalPos] at hlegal

end Stands

/-! ## The whole machine -/

/-- Every launch state meets the invariant. -/
theorem State.isLaunch.inv (h : s.isLaunch) : s.Inv :=
  State.inv_iff.2 ⟨.of_isLaunch h, .of_isLaunch h⟩

/-- The operation of an agent's turn completes under the invariant, and keeps the producer's part of it. -/
theorem Turn.completes {ws : List CmdWord} (turn : Turn s i ws) (hs : s.EngineInv) (hp : s.ProducerInv)
    (es : List Event) (n : Nat) : ∃ t, exec i (s.fetched es n ws) = .next t ∧ t.ProducerInv := by
  have hp' : (s.fetched es n ws).ProducerInv := { hp with }
  have hr' : (s.fetched es n ws).RingOk := { hs.ring with }
  cases turn with
  | tick _ _ ht =>
    obtain ⟨t, h⟩ := exec_tick_completes (s := s.fetched es n s.cmd) ht hs.rd_lt
    exact ⟨t, h, .of_tick h hp'⟩
  | issued _ hidle hd =>
    by_cases hinit : i = .init
    · subst hinit
      exact ⟨_, exec_init_idle hidle, ⟨Nat.zero_le _, fun _ => .inl rfl, rfl⟩⟩
    · exact (Stands.of_issue hp' hr' hidle hd hinit).completes
  | running _ hrun => exact (Stands.of_running hp' hr' hrun).completes

/-- Every step keeps the invariant. -/
theorem State.Inv.of_step (hs : s.Inv) (h : step s = .next t) : t.Inv := by
  obtain ⟨heng, hprod⟩ := State.inv_iff.1 hs
  cases step_effect h with
  | outside _ _ _ _ _ _ _ ht => rw [ht]; exact { hs with }
  | operation es n i ws turn h =>
    obtain ⟨u, hu, hprod'⟩ := turn.completes heng hprod es n
    obtain rfl : t = u := by simpa [h] using hu
    have heng' : (s.fetched es n ws).EngineInv := { heng with }
    exact State.inv_iff.2 ⟨heng'.of_effect (exec_effect h), hprod'⟩

/-- Under the invariant a step goes on, or the idle producer finds a reserved encoding on the port. -/
theorem State.Inv.progress (hs : s.Inv) :
    (∃ t, step s = .next t) ∨
    (∃ t why, nextEvent s = (.producer, t) ∧ t.prod = .idle ∧ decode t.cmd = .reject why ∧
      step s = .refused (.reservedWord why)) := by
  obtain ⟨heng, hprod⟩ := State.inv_iff.1 hs
  obtain ⟨es, n, hfetch⟩ := nextEvent_state s
  have hnext : nextEvent s = ((nextEvent s).1, s.fetched es n s.cmd) := Prod.ext rfl hfetch
  have hbooted : (s.fetched es n s.cmd).booted = true := hs.booted
  rw [step_eq hnext]
  cases hev : (nextEvent s).1 with
  | producer =>
    rw [hev] at hnext
    change (∃ t, producerTurn _ = _) ∨ _
    cases hp : s.prod with
    | running i pos =>
      have hi := (Stands.of_running hprod heng.ring hp).hasPositions
      obtain ⟨t, h, -⟩ := (Turn.running hev hp hs.booted hi).completes heng hprod es n
      exact .inl ⟨t, by rw [producerTurn_running hbooted hp, if_pos hi, h]⟩
    | idle =>
      cases hd : decode s.cmd with
      | got i rest =>
        obtain ⟨t, h, -⟩ := (Turn.issued hev hp hd (.inl hs.booted)).completes heng hprod es n
        have hissue := producerTurn_issue (s := s.fetched es n s.cmd) hp hd
        rw [if_pos (.inl hbooted)] at hissue
        exact .inl ⟨t, hissue.trans h⟩
      | incomplete => exact .inl ⟨_, producerTurn_incomplete (s := s.fetched es n s.cmd) hp hd⟩
      | reject why =>
        exact .inr ⟨_, why, hnext, hp, hd, producerTurn_reject (s := s.fetched es n s.cmd) hp hd⟩
  | handler =>
    refine .inl ?_
    change ∃ t, handlerTurn _ = _
    by_cases he : (s.fetched es n s.cmd).tickEnabled = true
    · obtain ⟨t, h⟩ := exec_tick_completes he hs.rd_lt
      exact ⟨t, by rw [handlerTurn_enabled he, if_pos hbooted, h]⟩
    · exact ⟨_, handlerTurn_disabled (Bool.eq_false_iff.2 he)⟩
  | period => exact .inl ⟨_, rfl⟩
  | setIe v => exact .inl ⟨_, rfl⟩
  | deliver ws => exact .inl ⟨_, rfl⟩

end Sys2Proof.Machine

namespace Sys2Proof
open Machine

/-- Settles O44: the engine's part of the invariant is kept by every effect of an operation, the producer's by every step
of a command that stands at a legal position. -/
theorem stepKeepsTheInvariant : Obligations.StepKeepsTheInvariant := fun _ _ => State.Inv.of_step

/-- Settles O46: the operation of an agent's turn completes under the invariant. -/
theorem stepStopsOnlyAtReservedEncodings : Obligations.StepStopsOnlyAtReservedEncodings := fun _ => State.Inv.progress

/-- The reset state is a launch state. -/
theorem reset_isLaunch : State.reset.isLaunch :=
  ⟨resetConfig_wf, reset_memory_wf, nofun, rfl, rfl, rfl, rfl, rfl, rfl, rfl, rfl⟩

/-- Settles O42: the fields of the reset state. -/
theorem resetIsALaunchState : Obligations.ResetIsALaunchState := ⟨reset_isLaunch, rfl⟩

/-- Settles O43: a launch state has an empty queue, an idle engine and an idle producer. -/
theorem launchStatesMeetTheInvariant : Obligations.LaunchStatesMeetTheInvariant :=
  ⟨fun _ => State.isLaunch.inv, reset_isLaunch.inv⟩

end Sys2Proof
end

section
/-! The line (R29, R63, R145): the levels that a shift register and a queue have still to send, and the ledger of what was
accepted and what was sent, kept balanced by every step. -/

namespace Sys2Proof.Machine
variable {s t : State} {i : Instr} {v : ShiftReg}

/-! ## The bits and levels left in a shift register -/

/-- The bits left are the shifts after which nothing is left (R29). -/
theorem bitsLeft_le_iff (v : ShiftReg) (m : Nat) : bitsLeft v ≤ m ↔ v >>> m = 0#12 := by
  have hshift : v >>> m = 0#12 ↔ v.toNat < 2 ^ m := by
    rw [← BitVec.toNat_inj, BitVec.toNat_ushiftRight, BitVec.toNat_ofNat, Nat.zero_mod, Nat.shiftRight_eq_div_pow,
      Nat.div_eq_zero_iff_lt (Nat.two_pow_pos m)]
  rw [hshift, bitsLeft]
  split
  · next hv => simp [hv]
  · next hv =>
    have hne : v.toNat ≠ 0 := fun h => hv (BitVec.eq_of_toNat_eq h)
    rw [Nat.add_one_le_iff, Nat.log2_lt hne]

/-- One shift leaves one bit fewer. -/
theorem bitsLeft_eq_succ (hv : v ≠ 0#12) : bitsLeft v = bitsLeft (v >>> 1) + 1 := by
  have hshift (m : Nat) : bitsLeft (v >>> 1) ≤ m ↔ bitsLeft v ≤ m + 1 := by
    rw [bitsLeft_le_iff, bitsLeft_le_iff, ← BitVec.shiftRight_add, Nat.add_comm]
  have hpos : ¬ bitsLeft v ≤ 0 := by rwa [bitsLeft_le_iff, BitVec.ushiftRight_zero]
  have hle := (hshift _).1 (Nat.le_refl _)
  have hge := (hshift (bitsLeft v - 1)).2 (by omega)
  omega

theorem bitsLeft_eq_one_iff (hv : v ≠ 0#12) : bitsLeft v = 1 ↔ v >>> 1 = 0#12 := by
  rw [← bitsLeft_le_iff, bitsLeft_eq_succ hv]
  omega

/-- A frame just loaded has all its `W_F` bits left (R83). -/
theorem bitsLeft_frame (p : Parity) (c : Byte) : bitsLeft (frame p c) = frameWidth p := by
  refine Nat.le_antisymm ((bitsLeft_le_iff _ _).2 (frame_ushiftRight_frameWidth p c)) (Nat.le_of_not_lt fun hlt => ?_)
  exact frame_ushiftRight_ne_zero hlt c ((bitsLeft_le_iff _ _).1 (Nat.le_refl _))

theorem InFlight.bitsLeft_le {p : Parity} (h : InFlight p v) : bitsLeft v ≤ frameWidth p := by
  obtain rfl | ⟨c, k, -, rfl⟩ := h
  · exact Nat.zero_le _
  · rw [bitsLeft_le_iff, ← BitVec.shiftRight_add, Nat.add_comm, BitVec.shiftRight_add,
      frame_ushiftRight_frameWidth, BitVec.zero_ushiftRight]

theorem levelsLeft_zero : levelsLeft 0#12 = [] := rfl

/-- The next level is the bit at position 0 (R131). -/
theorem levelsLeft_eq_cons (hv : v ≠ 0#12) : levelsLeft v = v.getLsbD 0 :: levelsLeft (v >>> 1) := by
  rw [levelsLeft, levelsLeft, bitsLeft_eq_succ hv, List.range_succ_eq_map, List.map_cons, List.map_map]
  refine congrArg _ (List.map_congr_left fun k _ => ?_)
  rw [Function.comp_apply, BitVec.getLsbD_ushiftRight, Nat.succ_eq_one_add]

/-- A frame just loaded has all its levels left (R84). -/
theorem levelsLeft_frame (p : Parity) (c : Byte) : levelsLeft (frame p c) = frameBits p c := by
  rw [levelsLeft, bitsLeft_frame, frameBits]

/-! ## The line ahead -/

theorem wireOf_append (p : Parity) (l m : List Byte) : wireOf p (l ++ m) = wireOf p l ++ wireOf p m :=
  List.flatMap_append

theorem State.lineAhead_of_idle_empty (hs : s.shift = 0#12) (hc : s.count = 0) : s.lineAhead = [] := by
  rw [State.lineAhead, hs, State.queued_of_empty hc]
  rfl

/-- A store puts the frame of its byte at the end of the line. -/
theorem State.RingOk.lineAhead_pushed (h : s.RingOk) (hc : s.count < s.cfg.capacity) (b : Byte) :
    (s.pushed b).lineAhead = s.lineAhead ++ wireOf s.cfg.parity [b] := by
  rw [State.lineAhead, h.queued_pushed hc]
  change levelsLeft s.shift ++ wireOf s.cfg.parity _ = levelsLeft s.shift ++ wireOf s.cfg.parity _ ++ _
  rw [wireOf_append, List.append_assoc]

/-- An emit tick takes the first level off the line. -/
theorem State.lineAhead_eq_cons (hs : s.shift ≠ 0#12) : s.lineAhead = s.shift.getLsbD 0 :: s.emitted.lineAhead := by
  rw [State.lineAhead, levelsLeft_eq_cons hs]
  rfl

/-- A load tick leaves the line as it is: the frame it loads was the first of the queue's. -/
theorem State.lineAhead_loaded (hs : s.shift = 0#12) (hc : s.count ≠ 0) (hr : s.rd < s.cfg.capacity) :
    s.loaded.lineAhead = s.lineAhead := by
  rw [State.lineAhead, State.lineAhead, hs, levelsLeft_zero, State.queued_eq_cons hr hc]
  change levelsLeft (frame s.cfg.parity (s.buf.slot s.rd)) ++ wireOf s.cfg.parity s.popped.queued = _
  rw [levelsLeft_frame]
  rfl

/-! ## The ledger -/

/-- The ledger after a step that issues no `INIT`. -/
def Ledger.extended (l : Ledger) (s t : State) : Ledger where
  accepted := l.accepted ++ (if t.count = s.count + 1 then [t.buf.slot s.wr] else [])
  emitted := l.emitted ++ (if s.shift ≠ 0#12 ∧ t.trace ≠ s.trace then [t.tx] else [])

theorem Ledger.after_init (l : Ledger) (t : State) (h : s.issuesInit = true) :
    l.after s t = { accepted := [], emitted := [] } := if_pos h

theorem Ledger.after_not_init (l : Ledger) (t : State) (h : s.issuesInit = false) : l.after s t = l.extended s t :=
  if_neg (by simp [h])

/-- A step with no store and no emit tick leaves the ledger, and so the balance if it leaves the line ahead. -/
theorem Ledger.balances_of_unmoved {l : Ledger} (hl : l.balances s) (hc : t.count ≤ s.count)
    (ht : s.shift = 0#12 ∨ t.trace = s.trace) (hline : t.lineAhead = s.lineAhead) (hcfg : t.cfg = s.cfg) :
    (l.extended s t).balances t := by
  have hcount : t.count ≠ s.count + 1 := by omega
  have htrace : ¬ (s.shift ≠ 0#12 ∧ t.trace ≠ s.trace) := by tauto
  have hext : l.extended s t = l := by simp [Ledger.extended, hcount, htrace]
  rw [hext, Ledger.balances, hline, hcfg]
  exact hl

/-- An empty ledger balances where nothing is in flight or queued. -/
theorem Ledger.balances_empty (hs : s.shift = 0#12) (hc : s.count = 0) :
    Ledger.balances { accepted := [], emitted := [] } s :=
  State.lineAhead_of_idle_empty hs hc

/-- Every effect but that of `INIT` and of a `DEQUEUE` by itself keeps the ledger balanced. -/
theorem Ledger.balances_of_effect {l : Ledger} (h : Effect i s t) (hr : s.RingOk) (hcount : s.count ≤ s.cfg.capacity)
    (hinit : i ≠ .init) (hdequeue : i ≠ .dequeue) (hl : l.balances s) : (l.extended s t).balances t := by
  cases h with
  | init hi => exact absurd hi hinit
  | popped hi => exact absurd hi hdequeue
  | quiet => exact Ledger.balances_of_unmoved hl (Nat.le_refl _) (.inr rfl) rfl rfl
  | arming => exact Ledger.balances_of_unmoved hl (Nat.le_refl _) (.inr rfl) rfl rfl
  | stored b p rs _ hc =>
    have hext : l.extended s { s.pushed b with prod := p, results := rs } =
        { accepted := l.accepted ++ [b], emitted := l.emitted } := by
      simp [Ledger.extended, State.pushed, Memory.slot_write]
    rw [hext]
    change l.emitted ++ (s.pushed b).lineAhead = wireOf s.cfg.parity (l.accepted ++ [b])
    rw [hr.lineAhead_pushed (by omega), wireOf_append, ← hl, List.append_assoc]
  | emit _ _ hs =>
    have hext : l.extended s s.enterHandler.emitted.leaveHandler =
        { accepted := l.accepted, emitted := l.emitted ++ [s.shift.getLsbD 0] } := by
      simp [Ledger.extended, State.emitted, hs]
    rw [hext]
    change l.emitted ++ [s.shift.getLsbD 0] ++ s.emitted.lineAhead = wireOf s.cfg.parity l.accepted
    rw [List.append_assoc, List.singleton_append, ← State.lineAhead_eq_cons hs]
    exact hl
  | load _ _ hs hc =>
    exact Ledger.balances_of_unmoved hl (Nat.sub_le _ _) (.inl hs) (State.lineAhead_loaded hs hc hr.rd_lt) rfl
  | nop _ _ hs => exact Ledger.balances_of_unmoved hl (Nat.le_refl _) (.inl hs) rfl rfl

/-- No agent's turn performs a `DEQUEUE` by itself (R201). -/
theorem Turn.ne_dequeue {ws : List CmdWord} (turn : Turn s i ws) : i ≠ .dequeue := by
  rintro rfl
  cases turn with
  | issued _ _ hd =>
    obtain ⟨front, henc, -⟩ := encode_of_decode hd
    cases encode_eq_some henc
  | running _ _ _ hi => cases hi

/-- Every step keeps the ledger balanced. -/
theorem Ledger.balances_of_step {l : Ledger} (hs : s.Inv) (hl : l.balances s) (h : step s = .next t) :
    (l.after s t).balances t := by
  cases step_effect h with
  | outside _ _ _ _ _ hinit _ ht =>
    rw [l.after_not_init t hinit, ht]
    exact Ledger.balances_of_unmoved hl (Nat.le_refl _) (.inr rfl) rfl rfl
  | operation es n i ws turn h =>
    by_cases hi : i = .init
    · subst hi
      rw [l.after_init t (turn.issuesInit_iff.2 rfl)]
      obtain ⟨-, rfl⟩ := exec_init_eq_next.1 h
      exact Ledger.balances_empty rfl rfl
    · have hinit : s.issuesInit = false := Bool.eq_false_iff.2 fun hinit => hi (turn.issuesInit_iff.1 hinit)
      rw [l.after_not_init t hinit]
      have hcount : s.count ≤ s.cfg.capacity := (Nat.le_add_right _ _).trans hs.room
      have hbal := Ledger.balances_of_effect (s := s.fetched es n ws) (l := l) (exec_effect h) ⟨hs.rd_lt, hs.wr_eq⟩
        hcount hi turn.ne_dequeue hl
      exact hbal

/-- A run with the ledger kept, from a balanced state that meets the invariant, ends in such a state. -/
theorem runLedger_balances {n : Nat} {l m : Ledger} (hs : s.Inv) (hl : l.balances s)
    (h : runLedger n l s = some (m, t)) : m.balances t ∧ t.cfg = s.cfg := by
  induction n generalizing l s with
  | zero => cases h; exact ⟨hl, rfl⟩
  | succ n ih =>
    rw [runLedger] at h
    split at h
    · next u hu =>
      obtain ⟨hbal, hcfg⟩ := ih (hs.of_step hu) (Ledger.balances_of_step hs hl hu) h
      exact ⟨hbal, hcfg.trans (parametersNeverChange s u hu)⟩
    · cases h
    · cases h

/-! ## The bits of the two transmitting arms -/

/-- What an emit tick that answers next says of the state before it, and its answer (R131). -/
theorem exec_tickEmit_inv (h : exec .tickEmit s = .next t) :
    s.tickEnabled = true ∧ s.shift ≠ 0#12 ∧ t = s.enterHandler.emitted.leaveHandler := by
  obtain ⟨he, hsel, -⟩ := takeTick_eq_next.1 h
  refine ⟨he, fun hs => ?_, exec_tickEmit_eq h⟩
  rw [decodeSelector_selector, if_neg (not_not.2 hs)] at hsel
  split at hsel <;> cases hsel

/-- A load tick that answers next loads the frame of the byte at `rd` (R132). -/
theorem exec_tickLoad_shift (h : exec .tickLoad s = .next t) : t.shift = frame s.cfg.parity (s.buf.slot s.rd) := by
  obtain ⟨-, -, u, hu, rfl⟩ := takeTick_eq_next.1 h
  rw [loadFrame_eq] at hu
  split at hu
  · cases hu
  · split at hu <;> cases hu
    rfl

end Sys2Proof.Machine

namespace Sys2Proof
open Machine

/-- Settles O47: every effect of an operation takes from the line ahead what it adds to the levels sent, and adds to it
the frames of what it adds to the bytes accepted. -/
theorem stepKeepsTheLedgerBalanced : Obligations.StepKeepsTheLedgerBalanced := fun _ _ _ => Ledger.balances_of_step

/-- Settles O48: the ledger balances along the run, and nothing is ahead when the engine is idle and the queue empty. -/
theorem everyRunSendsTheAcceptedBytesInOrder : Obligations.EveryRunSendsTheAcceptedBytesInOrder := by
  intro n s t l hs h
  obtain ⟨hbal, hcfg⟩ := runLedger_balances hs.inv (Ledger.balances_empty hs.shift hs.count) h
  rw [Ledger.balances, hcfg] at hbal
  refine ⟨⟨_, hbal⟩, fun hshift hcount => ?_⟩
  rwa [State.lineAhead_of_idle_empty hshift hcount, List.append_nil] at hbal

/-- Settles O23, from the bits left of a frame and of a shifted register. -/
theorem bitsLeftCountDown : Obligations.BitsLeftCountDown := by
  intro s t hs
  refine ⟨fun h => by rw [exec_tickLoad_shift h, bitsLeft_frame], fun h => ?_⟩
  obtain ⟨he, hne, rfl⟩ := exec_tickEmit_inv h
  obtain ⟨harmed, -⟩ := (tickEnabled_iff s).1 he
  have hsucc := bitsLeft_eq_succ hne
  rw [bitsLeft_eq_one_iff hne]
  refine ⟨by omega, InFlight.bitsLeft_le hs.inFlight, hsucc, ?_, getLsbD_zero_of_last hne⟩
  change (if s.shift >>> 1 = 0#12 ∧ s.count = 0 then false else s.armed) = false ↔ _
  simp [harmed]

end Sys2Proof
end

section
/-! Runs of ticks: a period and a handler's turn for each tick, from an armed engine with interrupts enabled, and the events
that a disarmed engine sees. -/

namespace Sys2Proof.Machine
variable {s t : State}

/-! ## Runs -/

theorem run_succ_of_step (n : Nat) (h : step s = .next t) : Host.Core.run core (n + 1) s = Host.Core.run core n t := by
  have hcore : core.step s = .next t := h
  simp only [Host.Core.run, hcore]

/-- A run goes on from where its first part ends. -/
theorem run_add_of_run {m : Nat} (n : Nat) (h : Host.Core.run core m s = .next t) :
    Host.Core.run core (m + n) s = Host.Core.run core n t := by
  induction m generalizing s with
  | zero => cases h; rw [Nat.zero_add]
  | succ m ih =>
    obtain ⟨u, hu, hrun⟩ := run_succ_eq_next.1 h
    rw [Nat.succ_add, run_succ_of_step _ hu, ih hrun]

theorem tickEvents_add (m n : Nat) : tickEvents (m + n) = tickEvents m ++ tickEvents n := by
  induction m with
  | zero => rw [Nat.zero_add]; rfl
  | succ m ih => rw [Nat.succ_add, tickEvents, ih]; rfl

/-! ## One tick -/

/-- An engine that takes the ticks of the schedule: armed, interrupts enabled, `INIT` performed. -/
structure State.Ticking (s : State) : Prop where
  armed : s.armed = true
  ie : s.ie = true
  booted : s.booted = true

/-- The state in which the handler takes the next tick, when its period and its turn have come. -/
def State.due (es : List Event) (s : State) : State := { s with tickPending := true, sched := es }

section
variable {es : List Event} (hs : s.Ticking) (hsched : s.sched = tickEvents 1 ++ es)

theorem State.Ticking.due (es : List Event) (hs : s.Ticking) : (s.due es).tickEnabled = true :=
  (tickEnabled_iff _).2 ⟨hs.armed, hs.ie, rfl⟩

include hs hsched

/-- The two steps of one tick: the period boundary and the TICK. -/
theorem run_tick (n : Nat) (h : exec .tick (s.due es) = .next t) :
    Host.Core.run core (n + 2) s = Host.Core.run core n t := by
  have hperiod : step s = .next { s with tickPending := true, sched := .handler :: es } :=
    step_eq (nextEvent_cons hsched)
  have hhandler : step { s with tickPending := true, sched := .handler :: es } = .next t := by
    rw [step_eq (nextEvent_cons rfl)]
    exact (handlerTurn_enabled (hs.due es)).trans ((if_pos hs.booted).trans h)
  rw [run_succ_of_step _ hperiod, run_succ_of_step _ hhandler]

theorem run_tick_emit (n : Nat) (hshift : s.shift ≠ 0#12) :
    Host.Core.run core (n + 2) s = Host.Core.run core n (s.due es).enterHandler.emitted.leaveHandler :=
  run_tick hs hsched n ((exec_tick_emit (s := s.due es) hshift).trans (exec_tickEmit_next (hs.due es) hshift))

theorem run_tick_load (n : Nat) (hshift : s.shift = 0#12) (hc : s.count ≠ 0) (hr : s.rd < s.cfg.capacity) :
    Host.Core.run core (n + 2) s = Host.Core.run core n (s.due es).enterHandler.loaded.leaveHandler :=
  run_tick hs hsched n ((exec_tick_load (s := s.due es) hshift hc).trans (exec_tickLoad_next (hs.due es) hshift hc hr))

theorem run_tick_nop (n : Nat) (hshift : s.shift = 0#12) (hc : s.count = 0) :
    Host.Core.run core (n + 2) s = Host.Core.run core n (s.due es).enterHandler.leaveHandler :=
  run_tick hs hsched n ((exec_tick_nop (s := s.due es) hshift hc).trans (exec_tickNop_next (hs.due es) hshift hc))

end

/-! ## The ticks of a frame -/

theorem ne_zero_of_bitsLeft {v : ShiftReg} {m : Nat} (h : bitsLeft v = m + 1) : v ≠ 0#12 := by
  rintro rfl
  cases h

/-- As many ticks as there are bits left send them all; the last one disarms an engine with an empty queue. -/
theorem run_emit_all {m : Nat} {rest : List Event} (hs : s.Ticking) (hbits : bitsLeft s.shift = m + 1)
    (hsched : s.sched = tickEvents (m + 1) ++ rest) :
    Host.Core.run core (2 * (m + 1)) s = .next
      { s with
        tx := true, shift := 0#12, armed := decide (s.count ≠ 0), tickPending := false
        trace := s.trace ++ levelsLeft s.shift, sched := rest } := by
  have hshift := ne_zero_of_bitsLeft hbits
  rw [levelsLeft_eq_cons hshift]
  induction m generalizing s with
  | zero =>
    have hlast : s.shift >>> 1 = 0#12 := (bitsLeft_eq_one_iff hshift).1 hbits
    have harmed : (if s.count = 0 then false else true) = decide (s.count ≠ 0) := by
      by_cases hc : s.count = 0 <;> simp [hc]
    have hbit : s.shift[0] = true := getLsbD_zero_of_last hshift hlast
    rw [run_tick_emit hs hsched 0 hshift]
    simp [Host.Core.run, State.emitted, State.due, State.enterHandler, State.leaveHandler, hlast,
      hbit, levelsLeft_zero, hs.armed, harmed]
  | succ m ih =>
    have hrest : bitsLeft (s.shift >>> 1) = m + 1 := by
      rw [bitsLeft_eq_succ hshift] at hbits
      omega
    have hne := ne_zero_of_bitsLeft hrest
    have harmed : (s.due (tickEvents (m + 1) ++ rest)).enterHandler.emitted.armed = true :=
      (if_neg fun hlast => hne hlast.1).trans hs.armed
    rw [Nat.mul_add_one, run_tick_emit hs hsched _ hshift]
    refine (ih (s := (s.due (tickEvents (m + 1) ++ rest)).enterHandler.emitted.leaveHandler)
      ⟨harmed, hs.ie, hs.booted⟩ hrest rfl hne).trans ?_
    have htrace : s.trace ++ [s.shift.getLsbD 0] ++ levelsLeft (s.shift >>> 1) =
        s.trace ++ s.shift.getLsbD 0 :: levelsLeft (s.shift >>> 1) := List.append_cons .. |>.symm
    rw [← htrace, levelsLeft_eq_cons hne]
    rfl

/-- The state in which the oldest byte of `s` has been sent. -/
def State.byteSent (rest : List Event) (s : State) : State :=
  { s with
    rd := (s.rd + 1) % s.cfg.capacity, count := s.count - 1
    trace := s.trace ++ true :: frameBits s.cfg.parity (s.buf.slot s.rd)
    armed := decide (s.count ≠ 1), tickPending := false, sched := rest }

/-- A load tick and `W_F` emit ticks send one byte. -/
theorem run_byte {rest : List Event} (hinv : s.Inv) (hs : s.Ticking) (hshift : s.shift = 0#12) (hc : s.count ≠ 0)
    (hsched : s.sched = tickEvents (frameWidth s.cfg.parity + 1) ++ rest) :
    Host.Core.run core (2 * (frameWidth s.cfg.parity + 1)) s = .next (s.byteSent rest) := by
  obtain ⟨m, hm⟩ : ∃ m, frameWidth s.cfg.parity = m + 1 := by cases s.cfg.parity <;> exact ⟨_, rfl⟩
  have hbits := bitsLeft_frame s.cfg.parity (s.buf.slot s.rd)
  rw [hm] at hsched hbits ⊢
  rw [Nat.mul_add_one, run_tick_load hs hsched _ hshift hc hinv.rd_lt]
  refine (run_emit_all (s := (s.due (tickEvents (m + 1) ++ rest)).enterHandler.loaded.leaveHandler)
    ⟨hs.armed, hs.ie, hs.booted⟩ hbits rfl).trans ?_
  have harmed : decide (s.count - 1 ≠ 0) = decide (s.count ≠ 1) := decide_eq_decide.2 (by omega)
  have hmark := hinv.mark hshift
  change Host.Outcome.next { s with
    rd := (s.rd + 1) % s.cfg.capacity, count := s.count - 1, tx := true, shift := 0#12
    armed := decide (s.count - 1 ≠ 0), tickPending := false
    trace := s.trace ++ [s.tx] ++ levelsLeft (frame s.cfg.parity (s.buf.slot s.rd)), sched := rest } = _
  rw [harmed, levelsLeft_frame, List.append_assoc, State.byteSent, hmark, hshift]
  rfl

/-- The ticks of `m + 1` queued bytes send them in order, and the last disarms. -/
theorem run_drain {m : Nat} {rest : List Event} (hinv : s.Inv) (hs : s.Ticking) (hshift : s.shift = 0#12)
    (hc : s.count = m + 1) (hsched : s.sched = tickEvents ((m + 1) * (frameWidth s.cfg.parity + 1)) ++ rest) :
    Host.Core.run core (2 * ((m + 1) * (frameWidth s.cfg.parity + 1))) s = .next
      { s with
        rd := (s.rd + (m + 1)) % s.cfg.capacity, count := 0
        trace := s.trace ++ s.queued.flatMap fun c => true :: frameBits s.cfg.parity c
        armed := false, tickPending := false, sched := rest } := by
  have hne : s.count ≠ 0 := by omega
  induction m generalizing s with
  | zero =>
    rw [Nat.zero_add, Nat.one_mul] at hsched ⊢
    have hqueued : s.queued = [s.buf.slot s.rd] := by
      rw [State.queued_eq_cons hinv.rd_lt hne, State.queued_of_empty (s := s.popped) (by simp [State.popped, hc])]
    rw [run_byte hinv hs hshift hne hsched, hqueued]
    simp [State.byteSent, hc]
  | succ m ih =>
    rw [Nat.succ_mul (m + 1), Nat.add_comm _ (frameWidth s.cfg.parity + 1)] at hsched ⊢
    rw [tickEvents_add, List.append_assoc] at hsched
    have hbyte := run_byte hinv hs hshift hne hsched
    have hinv' := run_keeps (fun _ _ => State.Inv.of_step) hinv hbyte
    have hticking : (s.byteSent (tickEvents ((m + 1) * (frameWidth s.cfg.parity + 1)) ++ rest)).Ticking :=
      ⟨decide_eq_true (by omega), hs.ie, hs.booted⟩
    have hcount : s.count - 1 = m + 1 := by omega
    have htrace : s.trace ++ true :: frameBits s.cfg.parity (s.buf.slot s.rd) ++
        s.popped.queued.flatMap (fun c => true :: frameBits s.cfg.parity c) =
        s.trace ++ s.queued.flatMap fun c => true :: frameBits s.cfg.parity c := by
      rw [State.queued_eq_cons hinv.rd_lt hne, List.flatMap_cons, List.append_assoc]
    rw [Nat.mul_add, run_add_of_run _ hbyte]
    refine (ih hinv' hticking hshift hcount rfl (ne_of_eq_of_ne hcount m.succ_ne_zero)).trans ?_
    rw [← htrace, ← ringSlot_succ s.cfg.capacity s.rd (m + 1)]
    rfl

/-- Ticks of an idle, empty engine only sample the resting pin. -/
theorem run_idle {n : Nat} {rest : List Event} (hs : s.Ticking) (hshift : s.shift = 0#12) (hc : s.count = 0)
    (hsched : s.sched = tickEvents (n + 1) ++ rest) :
    Host.Core.run core (2 * (n + 1)) s = .next
      { s with trace := s.trace ++ List.replicate (n + 1) s.tx, tickPending := false, sched := rest } := by
  induction n generalizing s with
  | zero => exact run_tick_nop hs hsched 0 hshift hc
  | succ n ih =>
    rw [Nat.mul_add_one, run_tick_nop hs hsched _ hshift hc]
    refine (ih (s := (s.due (tickEvents (n + 1) ++ rest)).enterHandler.leaveHandler)
      ⟨hs.armed, hs.ie, hs.booted⟩ hshift hc rfl).trans ?_
    rw [List.replicate_succ (n := n + 1), List.append_cons]
    rfl

/-! ## A disarmed engine -/

/-- A step of a disarmed engine without the producer: only the inputs move. -/
theorem step_disarmed {e : Event} {es : List Event} (he : e ≠ .producer) (harmed : s.armed = false)
    (hsched : s.sched = e :: es) :
    ∃ pend v ws, step s = .next { s with tickPending := pend, ie := v, cmd := s.cmd ++ ws, sched := es } := by
  have hcmd := List.append_nil s.cmd
  rw [step_eq (nextEvent_cons hsched)]
  cases e with
  | producer => exact absurd rfl he
  | handler =>
    refine ⟨s.tickPending, s.ie, [], ?_⟩
    rw [hcmd]
    exact handlerTurn_disabled (by simp [State.tickEnabled, harmed])
  | period => exact ⟨true, s.ie, [], by rw [hcmd]; rfl⟩
  | setIe v => exact ⟨s.tickPending, v, [], by rw [hcmd]; rfl⟩
  | deliver ws => exact ⟨s.tickPending, s.ie, ws, rfl⟩

/-- Events without the producer's move only the inputs of a disarmed engine. -/
theorem run_disarmed {es rest : List Event} (hes : Event.producer ∉ es) (harmed : s.armed = false)
    (hsched : s.sched = es ++ rest) :
    ∃ pend v ws, Host.Core.run core es.length s =
      .next { s with tickPending := pend, ie := v, cmd := s.cmd ++ ws, sched := rest } := by
  induction es generalizing s with
  | nil =>
    obtain rfl : s.sched = rest := hsched
    exact ⟨s.tickPending, s.ie, [], by rw [List.append_nil]; rfl⟩
  | cons e es ih =>
    obtain ⟨hhead, htail⟩ := not_or.1 (mt List.mem_cons.2 hes)
    obtain ⟨pend, v, ws, hstep⟩ := step_disarmed (Ne.symm hhead) harmed hsched
    obtain ⟨pend', v', ws', hrun⟩ := ih htail (s := { s with
      tickPending := pend, ie := v, cmd := s.cmd ++ ws, sched := es ++ rest }) harmed rfl
    refine ⟨pend', v', ws ++ ws', ?_⟩
    rw [List.length_cons, run_succ_of_step _ hstep, ← List.append_assoc]
    exact hrun

end Sys2Proof.Machine

namespace Sys2Proof
open Machine

/-- Settles O24: a load tick and an emit tick for each bit of the frame. -/
theorem oneByteTakesWidthPlusOneTicks : Obligations.OneByteTakesWidthPlusOneTicks :=
  fun _ _ hinv harmed hie hshift hc => run_byte hinv ⟨harmed, hie, hinv.booted⟩ hshift hc

/-- Settles O25, by induction on the number of queued bytes. -/
theorem queueDrainsAndDisarms : Obligations.QueueDrainsAndDisarms := by
  intro s rest hinv harmed hie hshift hc hsched
  obtain ⟨m, hm⟩ := Nat.exists_eq_succ_of_ne_zero hc
  rw [hm] at hsched ⊢
  exact run_drain hinv ⟨harmed, hie, hinv.booted⟩ hshift hm hsched

/-- Settles O26, by induction on the number of ticks. -/
theorem armedIdleEngineTicksToNoEffect : Obligations.ArmedIdleEngineTicksToNoEffect :=
  fun _ _ _ hbooted harmed hie hshift hc => run_idle ⟨harmed, hie, hbooted⟩ hshift hc

/-- Settles O27, by induction on the events. -/
theorem disarmedEngineIsInert : Obligations.DisarmedEngineIsInert := fun _ _ _ => run_disarmed

end Sys2Proof
end

section
/-! How a command ends (R36, R90, R168): what a step of each command can do when it answers next, what it signals, and the
commands that are refused while another is in progress. -/

namespace Sys2Proof.Machine
variable {s t : State} {i : Instr}

/-- Everything a step of `PUT` can do (R164): a poll, the store, or the arming with the clear. -/
theorem exec_put_next {b : Byte} (h : exec (.put b) s = .next t) :
    (∃ pos, t = s.goto (.put b) pos) ∨ t = (s.pushed b).goto (.put b) .arming ∨
      t = s.armTickClear.finish .done := by
  simp only [exec, execPut] at h
  split at h
  · cases h; exact .inl ⟨_, rfl⟩
  · obtain ⟨-, -, ht⟩ := storeThen_next h; exact .inr (.inl ht)
  · cases h; exact .inr (.inr rfl)
  · cases h
  · cases h

/-- Everything a step of `PUT_STRING` can do (R166): a poll, the store of a byte, or the arming with the clear. -/
theorem exec_putString_next {bs : List Byte} {len : Nat} (h : exec (.putString bs len) s = .next t) :
    (∃ pos, t = s.goto (.putString bs len) pos) ∨
    (∃ b k, t = (s.pushed b).goto (.putString bs len) (stringPos len k)) ∨
      t = s.armTickClear.finish .done := by
  simp only [exec, execPutString] at h
  split at h
  · cases h; exact .inl ⟨_, rfl⟩
  · obtain ⟨b, -, -, -, ht⟩ := storeStringByte_next h; exact .inr (.inl ⟨b, _, ht⟩)
  · cases h; exact .inr (.inr rfl)
  · cases h
  · cases h

/-- A step of a command leaves it in progress, or ends it with one of its results. -/
theorem exec_command_next (hi : commandResults i ≠ []) (h : exec i s = .next t) :
    (∃ pos, t.prod = .running i pos) ∨ ∃ u r, t = State.finish r u ∧ u.rsp = s.rsp ∧ r ∈ commandResults i := by
  cases i with
  | init =>
    obtain ⟨-, rfl⟩ := exec_init_eq_next.1 h
    exact .inr ⟨_, _, rfl, rfl, by simp [commandResults]⟩
  | tryPut b =>
    obtain ⟨-, -, rfl⟩ | ⟨-, -, -, rfl⟩ | ⟨-, rfl⟩ := exec_tryPut_next h
    · exact .inr ⟨_, _, rfl, rfl, by simp [commandResults]⟩
    · exact .inl ⟨_, rfl⟩
    · exact .inr ⟨_, _, rfl, rfl, by simp [commandResults]⟩
  | put b =>
    obtain ⟨pos, rfl⟩ | rfl | rfl := exec_put_next h
    · exact .inl ⟨_, rfl⟩
    · exact .inl ⟨_, rfl⟩
    · exact .inr ⟨_, _, rfl, rfl, by simp [commandResults]⟩
  | tryPutString bs len =>
    obtain ⟨-, -, rfl⟩ | ⟨-, -, rfl⟩ | ⟨k, b, -, -, -, -, rfl⟩ | ⟨-, rfl⟩ := exec_tryPutString_next h
    · exact .inr ⟨_, _, rfl, rfl, by simp [commandResults]⟩
    · exact .inl ⟨_, rfl⟩
    · exact .inl ⟨_, rfl⟩
    · exact .inr ⟨_, _, rfl, rfl, by simp [commandResults]⟩
  | putString bs len =>
    obtain ⟨pos, rfl⟩ | ⟨b, k, rfl⟩ | rfl := exec_putString_next h
    · exact .inl ⟨_, rfl⟩
    · exact .inl ⟨_, rfl⟩
    · exact .inr ⟨_, _, rfl, rfl, by simp [commandResults]⟩
  | _ => exact absurd rfl hi

/-- The results of commands have a code, which is 1 for `BUSY` alone (R90). -/
theorem rspBit_of_commandResult {r : Result} (h : r ∈ commandResults i) : r.rspBit = some (decide (r = .busy)) := by
  cases r with
  | byte c => cases i <;> simp [commandResults] at h
  | _ => rfl

/-- An effect leaves `rsp`, or signals a result of the command that ends (R90). -/
theorem Effect.signalled (h : Effect i s t) : Signalled i s t.prod t.results t.rsp := by
  cases h with
  | init hi => exact .inr ⟨.done, by simp [hi, commandResults], rfl, rfl, rfl⟩
  | quiet _ _ _ _ hq => exact hq
  | arming _ _ _ _ _ _ hq => exact hq
  | stored => exact .inl rfl
  | popped => exact .inl rfl
  | emit => exact .inl rfl
  | load => exact .inl rfl
  | nop => exact .inl rfl

/-- A command that ends signals (R90). -/
theorem rsp_ne_of_ended (hi : commandResults i ≠ []) (h : exec i s = .next t) (hidle : t.prod = .idle) :
    t.rsp ≠ s.rsp := by
  obtain ⟨pos, hrun⟩ | ⟨u, r, rfl, hu, hr⟩ := exec_command_next hi h
  · simp [hrun] at hidle
  · simp [rspBit_of_commandResult hr, hu]

end Sys2Proof.Machine

namespace Sys2Proof
open Machine

/-- Settles O40: the effects of an operation on `rsp`, and the ways in which a command ends. -/
theorem rspSignalsTheEndOfACommand : Obligations.RspSignalsTheEndOfACommand := by
  refine ⟨rfl, rfl, rfl, fun i s t h => ⟨?_, fun hi => rsp_ne_of_ended hi h⟩⟩
  obtain hkept | ⟨r, hr, hidle, hresults, hrsp⟩ := (exec_effect h).signalled
  · exact .inl hkept
  · rw [rspBit_of_commandResult hr] at hrsp
    exact .inr ⟨r, hr, hidle, hresults, hrsp⟩

/-- Settles O41: where another command is in progress, `INIT` finds no idle producer and the other commands no position. -/
theorem noSecondCommandWhileOneRuns : Obligations.NoSecondCommandWhileOneRuns := by
  intro i j pos s hp hi
  obtain rfl | ⟨hne, ⟨b, rfl | rfl | rfl⟩ | ⟨bs, len, rfl | rfl⟩⟩ := hi
  · simp [exec, execInit, hp]
  · simp [exec, execTryPut, position_other hp hne]
  · simp [exec, execPut, position_other hp hne]
  · simp [exec, execEnqueue, position_other hp hne]
  · simp [exec, execTryPutString, position_other hp hne]
  · simp [exec, execPutString, position_other hp hne]

end Sys2Proof
end

section
/-! What each side cannot see (10_state.md section 8): operations that commute with a change of the state. -/

namespace Sys2Proof.Machine

/-- The operation `o` commutes with the change `f` of the state, also where it stops. -/
def Commutes (f : State → State) (o : State → Res State) : Prop :=
  ∀ s, o (f s) = andThen (o s) fun t => .next (f t)

/-! ## The producer's operations and the handler's state -/

/-- A change of what the handler alone writes, and of the trace. -/
def State.withHandlerState (v : ShiftReg) (level : Bool) (r : Nat) (samples : List Bool) (s : State) : State :=
  { s with shift := v, tx := level, rd := r, trace := samples }

section
variable (v : ShiftReg) (level : Bool) (r : Nat) (samples : List Bool)

theorem position_withHandlerState (i : Instr) (s : State) :
    position i (s.withHandlerState v level r samples) = position i s := rfl

theorem storeByte_commutes (b : Byte) : Commutes (State.withHandlerState v level r samples) (storeByte b) := by
  intro s
  rw [storeByte_eq, storeByte_eq]
  change (if s.count < s.cfg.capacity then if s.wr < s.cfg.capacity then _ else _ else _) = _
  split
  · split <;> rfl
  · rfl

theorem storeThen_commutes (b : Byte) (i : Instr) (pos : Pos) :
    Commutes (State.withHandlerState v level r samples) (storeThen b i pos) := by
  intro s
  rw [storeThen, storeByte_commutes, storeThen]
  cases storeByte b s <;> rfl

theorem storeStringByte_commutes (bs : List Byte) (len k : Nat) (i : Instr) :
    Commutes (State.withHandlerState v level r samples) (storeStringByte bs len k i) := by
  intro s
  unfold storeStringByte
  split
  · exact storeThen_commutes v level r samples _ i _ s
  · rfl

theorem exec_tryPut_commutes (b : Byte) : Commutes (State.withHandlerState v level r samples) (exec (.tryPut b)) := by
  intro s
  simp only [exec, execTryPut, position_withHandlerState]
  split
  · rw [tryEnqueueByte_eq, tryEnqueueByte_eq]
    change andThen (if s.count = s.cfg.capacity then _ else if s.wr < s.cfg.capacity then _ else _) _ = _
    split
    · rfl
    · split <;> rfl
  · rfl
  · rfl
  · rfl

theorem exec_put_commutes (b : Byte) : Commutes (State.withHandlerState v level r samples) (exec (.put b)) := by
  intro s
  simp only [exec, execPut, position_withHandlerState]
  split
  · rfl
  · exact storeThen_commutes v level r samples b _ _ s
  · rfl
  · rfl
  · rfl

theorem exec_tryPutString_commutes (bs : List Byte) (len : Nat) :
    Commutes (State.withHandlerState v level r samples) (exec (.tryPutString bs len)) := by
  intro s
  simp only [exec, execTryPutString, position_withHandlerState]
  split
  · change (if s.cfg.capacity - poll s < len then _ else _) = _
    split <;> rfl
  · exact storeStringByte_commutes v level r samples bs len _ _ s
  · rfl
  · rfl
  · rfl

theorem exec_putString_commutes (bs : List Byte) (len : Nat) :
    Commutes (State.withHandlerState v level r samples) (exec (.putString bs len)) := by
  intro s
  simp only [exec, execPutString, position_withHandlerState]
  split
  · rfl
  · exact storeStringByte_commutes v level r samples bs len _ _ s
  · rfl
  · rfl
  · rfl

theorem exec_tryEnqueue_commutes (b : Byte) :
    Commutes (State.withHandlerState v level r samples) (exec (.tryEnqueue b)) := by
  intro s
  simp only [exec, execTryEnqueue]
  rw [tryEnqueueByte_eq, tryEnqueueByte_eq]
  change andThen (if s.count = s.cfg.capacity then _ else if s.wr < s.cfg.capacity then _ else _) _ = _
  split
  · rfl
  · split <;> rfl

theorem exec_enqueue_commutes (b : Byte) : Commutes (State.withHandlerState v level r samples) (exec (.enqueue b)) := by
  intro s
  simp only [exec, execEnqueue, position_withHandlerState]
  split
  · rfl
  · rw [storeByte_commutes]
    cases storeByte b s <;> rfl
  · rfl
  · rfl

end

/-! ## The handler's operations and the producer's state -/

/-- A change of what the producer alone writes, of the port and of the records of results. -/
def State.withProducerState (w : Nat) (p : Producer) (ws : List CmdWord) (rs : List Result) (qs : List Bool) (s : State) :
    State :=
  { s with wr := w, prod := p, cmd := ws, results := rs, rsp := qs }

section
variable (w : Nat) (p : Producer) (ws : List CmdWord) (rs : List Result) (qs : List Bool)

theorem loadFrame_commutes : Commutes (State.withProducerState w p ws rs qs) loadFrame := by
  intro s
  rw [loadFrame_eq, loadFrame_eq]
  change (if s.count = 0 then _ else if s.rd < s.cfg.capacity then _ else _) = _
  split
  · rfl
  · split <;> rfl

/-- Entry, selection and return read and write nothing of the producer's, so a TICK commutes where its body does. -/
theorem takeTick_commutes (which : Instr) {body : State → Res State}
    (h : Commutes (State.withProducerState w p ws rs qs) body) :
    Commutes (State.withProducerState w p ws rs qs) (takeTick which body) := by
  intro s
  unfold takeTick
  change (if s.tickEnabled then if decodeSelector s.selector = which then
    andThen (body (s.enterHandler.withProducerState w p ws rs qs)) _ else _ else _) = _
  rw [h]
  split
  · split
    · cases body s.enterHandler <;> rfl
    · rfl
  · rfl

theorem exec_tickEmit_commutes : Commutes (State.withProducerState w p ws rs qs) (exec .tickEmit) :=
  takeTick_commutes w p ws rs qs .tickEmit fun _ => rfl

theorem exec_tickLoad_commutes : Commutes (State.withProducerState w p ws rs qs) (exec .tickLoad) :=
  takeTick_commutes w p ws rs qs .tickLoad (loadFrame_commutes w p ws rs qs)

theorem exec_tickNop_commutes : Commutes (State.withProducerState w p ws rs qs) (exec .tickNop) :=
  takeTick_commutes w p ws rs qs .tickNop fun _ => rfl

theorem exec_tick_commutes : Commutes (State.withProducerState w p ws rs qs) (exec .tick) := by
  intro s
  by_cases hs : s.shift = 0#12
  · by_cases hc : s.count = 0
    · rw [exec_tick_nop (s := s.withProducerState w p ws rs qs) hs hc, exec_tick_nop hs hc]
      exact exec_tickNop_commutes w p ws rs qs s
    · rw [exec_tick_load (s := s.withProducerState w p ws rs qs) hs hc, exec_tick_load hs hc]
      exact exec_tickLoad_commutes w p ws rs qs s
  · rw [exec_tick_emit (s := s.withProducerState w p ws rs qs) hs, exec_tick_emit hs]
    exact exec_tickEmit_commutes w p ws rs qs s

end

end Sys2Proof.Machine

namespace Sys2Proof
open Machine

/-- Settles O58, one operation of the producer after the other. -/
theorem producerCannotSeeTheHandlersState : Obligations.ProducerCannotSeeTheHandlersState := by
  intro i s v level r samples hi
  cases i with
  | tryPut b => exact exec_tryPut_commutes v level r samples b s
  | put b => exact exec_put_commutes v level r samples b s
  | tryPutString bs len => exact exec_tryPutString_commutes v level r samples bs len s
  | putString bs len => exact exec_putString_commutes v level r samples bs len s
  | store b => exact storeByte_commutes v level r samples b s
  | tryEnqueue b => exact exec_tryEnqueue_commutes v level r samples b s
  | enqueue b => exact exec_enqueue_commutes v level r samples b s
  | arm => rfl
  | armClr => rfl
  | _ => simp at hi

/-- Settles O59, one form of the TICK after the other. -/
theorem handlerCannotSeeTheProducersState : Obligations.HandlerCannotSeeTheProducersState := by
  intro i s w p ws rs qs hi
  cases i with
  | tick => exact exec_tick_commutes w p ws rs qs s
  | tickEmit => exact exec_tickEmit_commutes w p ws rs qs s
  | tickLoad => exact exec_tickLoad_commutes w p ws rs qs s
  | tickNop => exact exec_tickNop_commutes w p ws rs qs s
  | _ => simp at hi

end Sys2Proof
end

section
/-! An instruction of the opcode table laid before the next step (log entry 11). -/

namespace Sys2Proof

/-- A command that is read leaves what follows its words. -/
theorem decode_append {ws rest : List CmdWord} {i : Instr} (h : decode ws = .got i rest) (more : List CmdWord) :
    decode (ws ++ more) = .got i (rest ++ more) := by
  obtain ⟨front, henc, rfl⟩ := encode_of_decode h
  have htrimmed : trimmed i = i := by simpa [decode_encode henc] using h
  rw [List.append_assoc, decode_encode henc, htrimmed]

/-- A command takes its word and the payload words that the word announces (R93). -/
theorem decode_length {w : CmdWord} {ws rest : List CmdWord} {i : Instr} (h : decode (w :: ws) = .got i rest) :
    ws.length = payloadCount w + rest.length := by
  have payload {bs : List Byte} (hread : readPayload (argField w).toNat ws = .got bs rest) :
      ws.length = (argField w).toNat + rest.length := by
    obtain ⟨-, front, rfl, hfront, -⟩ := readPayload_got hread
    rw [List.length_append, hfront]
  obtain ⟨-, ⟨hop, -, -, rfl⟩ | ⟨hop, -, rfl⟩ | ⟨hop, -, rfl⟩ | ⟨bs, hop, hread, -⟩ | ⟨bs, hop, hread, -⟩⟩ := decode_got h
  · simp [payloadCount, hop]
  · simp [payloadCount, hop]
  · simp [payloadCount, hop]
  · simpa [payloadCount, hop] using payload hread
  · simpa [payloadCount, hop] using payload hread

/-- A row of 16 bits is read whole. -/
theorem decode_tableWords {w : Nat} {i : Instr} (h : decodeTableWord 16 w = some i) :
    decode (tableWords 16 w) = .got i [] := by
  simp only [decodeTableWord, Nat.reduceLeDiff, if_false] at h
  split at h
  · next j rest hd =>
    cases h
    have hlength := decode_length hd
    rw [List.length_map, List.length_range, Nat.left_eq_add, List.length_eq_zero_iff] at hlength
    rw [hd, hlength]
  · cases h
  · cases h

/-- A row of one byte is a selector. -/
theorem decodeTableWord_selector {w : Nat} {i : Instr} (h : decodeTableWord 8 w = some i) :
    decodeSelector (BitVec.ofNat 2 w) = i := by
  simp only [decodeTableWord, Nat.le_refl, if_true] at h
  split at h <;> cases h
  rfl

namespace Machine
variable {s : State}

theorem withQueueBit_count (q : Bool) : (s.withQueueBit q).count ≠ 0 ↔ q = true := by
  unfold State.withQueueBit
  cases q with
  | false => simp
  | true => by_cases hc : s.count = 0 <;> simp [hc]

theorem withQueueBit_frame (q : Bool) : (s.withQueueBit q).rd = s.rd ∧ (s.withQueueBit q).cfg = s.cfg := by
  unfold State.withQueueBit
  cases q with
  | false => exact ⟨rfl, rfl⟩
  | true => by_cases hc : s.count = 0 <;> simp [hc]

theorem withShiftBit_shift (b : Bool) : (s.withShiftBit b).shift ≠ 0#12 ↔ b = true := by
  unfold State.withShiftBit
  cases b with
  | false => simp
  | true => by_cases hs : s.shift = 0#12 <;> simp [hs]

theorem withShiftBit_frame (b : Bool) :
    (s.withShiftBit b).count = s.count ∧ (s.withShiftBit b).rd = s.rd ∧ (s.withShiftBit b).cfg = s.cfg := by
  unfold State.withShiftBit
  cases b with
  | false => exact ⟨rfl, rfl, rfl⟩
  | true => by_cases hs : s.shift = 0#12 <;> simp [hs]

/-- The state that is made for a selector has an arm of that selector. -/
theorem decodeSelector_withSelector (sq : Selector) (s : State) :
    decodeSelector (s.withSelector sq).selector = decodeSelector sq := by
  have hshift : (s.withSelector sq).shift ≠ 0#12 ↔ sq.getLsbD 1 = true := withShiftBit_shift _
  have hcount : (s.withSelector sq).count ≠ 0 ↔ sq.getLsbD 0 = true := by
    obtain ⟨hkept, -⟩ := withShiftBit_frame (s := s.withQueueBit (sq.getLsbD 0)) (sq.getLsbD 1)
    change ((s.withQueueBit (sq.getLsbD 0)).withShiftBit (sq.getLsbD 1)).count ≠ 0 ↔ _
    rw [hkept, withQueueBit_count]
  rw [decodeSelector_selector, decodeSelector]
  simp only [hshift, hcount]

/-- A TICK is the arm that the selector names (R130). -/
theorem exec_selected (s : State) : exec (decodeSelector s.selector) s = exec .tick s := by
  rw [decodeSelector_selector]
  by_cases hs : s.shift = 0#12
  · by_cases hc : s.count = 0
    · simp [hs, hc, exec_tick_nop hs hc]
    · simp [hs, hc, exec_tick_load hs hc]
  · simp [hs, exec_tick_emit hs]

/-- A command laid on the port is issued by the next step. -/
theorem step_withCommand {ws : List CmdWord} {i : Instr} (h : decode ws = .got i []) :
    step (s.withCommand ws) = exec i { s with prod := .idle, booted := true } := by
  have hnext : nextEvent (s.withCommand ws) =
      (.producer, { s with cmd := ws ++ s.cmd, prod := .idle, booted := true }) := nextEvent_cons rfl
  rw [step_eq hnext]
  exact (producerTurn_issue (s := { s with cmd := ws ++ s.cmd, prod := .idle, booted := true }) rfl
    (decode_append h s.cmd)).trans (if_pos (.inl rfl))

/-- A selector laid in the state is taken by the next step, as the arm it names. -/
theorem step_withSelector (sq : Selector) (hr : s.rd < s.cfg.capacity) :
    ∃ t, step (s.withSelector sq) = .next t ∧
      exec (decodeSelector sq) { s.withSelector sq with sched := s.sched } = .next t := by
  obtain ⟨-, hrd, hcfg⟩ := withShiftBit_frame (s := s.withQueueBit (sq.getLsbD 0)) (sq.getLsbD 1)
  obtain ⟨hrd', hcfg'⟩ := withQueueBit_frame (s := s) (sq.getLsbD 0)
  have hr' : (s.withSelector sq).rd < (s.withSelector sq).cfg.capacity := by
    change ((s.withQueueBit (sq.getLsbD 0)).withShiftBit (sq.getLsbD 1)).rd <
      ((s.withQueueBit (sq.getLsbD 0)).withShiftBit (sq.getLsbD 1)).cfg.capacity
    rwa [hrd, hrd', hcfg, hcfg']
  obtain ⟨t, ht⟩ := exec_tick_completes (s := { s.withSelector sq with sched := s.sched }) rfl hr'
  have hnext : nextEvent (s.withSelector sq) = (.handler, { s.withSelector sq with sched := s.sched }) :=
    nextEvent_cons rfl
  refine ⟨t, ?_, ?_⟩
  · rw [step_eq hnext]
    exact (handlerTurn_enabled rfl).trans ht
  · rw [← decodeSelector_withSelector sq s]
    exact (exec_selected { s.withSelector sq with sched := s.sched }).trans ht

end Machine

open Machine

/-- Settles O52: the words of a row are read whole, and the state made for a selector has its arm. -/
theorem laidWordIsRunNext : Obligations.LaidWordIsRunNext := by
  intro s w i
  refine ⟨fun h => step_withCommand (decode_tableWords h), fun h hr => ?_⟩
  rw [← decodeTableWord_selector h]
  exact step_withSelector _ hr

end Sys2Proof
end
